-- ==== Sys2Proof/Word.lean ====
section
/-!
DEFINITION. The word types of the CPU12: bytes and 16-bit words are bit vectors (spec/00_scope.md R6, R7).
-/

namespace Sys2Proof

/-- An 8-bit quantity: a memory byte, A, B, CCR, PPAGE, an opcode or postbyte (00_scope.md R5, R6). -/
abbrev Byte := BitVec 8

/-- A 16-bit quantity: an address, D, X, Y, SP, PC (00_scope.md R5, R6); its arithmetic wraps (R7, D26). -/
abbrev Word := BitVec 16

end Sys2Proof
end

