-- ==== Sys2Proof/Syntax.lean ====
section
/-!
DEFINITION. The syntax of CPU12 instructions: the operand forms of spec/30_encoding.md (R113 to R145) and `Instr`, one
constructor for each of the 208 mnemonics of spec/opcode_table.json. The classes of R129 (which indexed forms an
instruction admits) are types, so a form outside its instruction's class cannot be written. The 27 mnemonics of R152
that are second names keep a constructor (log entry 6).
-/

namespace Sys2Proof

/-- Base register of indexed addressing (30_encoding.md R120, field `rr`). -/
inductive IdxBase where
  | x
  | y
  | sp
  | pc
  deriving DecidableEq, Repr

/-- Base register of the automatic forms: PC cannot be auto-modified (R122). -/
inductive AutoBase where
  | x
  | y
  | sp
  deriving DecidableEq, Repr

/-- Accumulator of the accumulator-offset form (R123). -/
inductive AccOffset where
  | a
  | b
  | d
  deriving DecidableEq, Repr

/-- The class *no extension* of R129 (mode IDX): the postbyte says everything. The four bits of `pre` and `post` are
`nnnn` of R122, not the step. -/
inductive IdxShort where
  | const5 (r : IdxBase) (n : BitVec 5)
  | pre (r : AutoBase) (n : BitVec 4)
  | post (r : AutoBase) (n : BitVec 4)
  | acc (r : IdxBase) (o : AccOffset)
  deriving DecidableEq, Repr

/-- The class *no indirect* of R129 (modes IDX, IDX1, IDX2). -/
inductive IdxDirect where
  | short (f : IdxShort)
  | const9 (r : IdxBase) (n : BitVec 9)
  | const16 (r : IdxBase) (n : Word)
  deriving DecidableEq, Repr

/-- The class *full* of R129 (modes IDX, IDX1, IDX2, [D,IDX], [IDX2]). -/
inductive IdxFull where
  | direct (f : IdxDirect)
  | indD (r : IdxBase)
  | ind16 (r : IdxBase) (n : Word)
  deriving DecidableEq, Repr

/-- A memory operand: direct (R114), extended (R115) or indexed. -/
inductive MemOperand where
  | dir (a : Byte)
  | ext (a : Word)
  | idx (f : IdxFull)
  deriving DecidableEq, Repr

/-- The operand of an 8-bit register instruction: immediate (R113) or memory. -/
inductive Operand8 where
  | imm (v : Byte)
  | mem (m : MemOperand)
  deriving DecidableEq, Repr

/-- The operand of a 16-bit register instruction: immediate (R113) or memory. -/
inductive Operand16 where
  | imm (v : Word)
  | mem (m : MemOperand)
  deriving DecidableEq, Repr

/-- The operand of a read-modify-write instruction, of CLR, TST and JMP: they have no direct form (R147). -/
inductive RmwOperand where
  | ext (a : Word)
  | idx (f : IdxFull)
  deriving DecidableEq, Repr

/-- The operand of BSET, BCLR, BRSET and BRCLR: no indirect form (R129). -/
inductive BitOperand where
  | dir (a : Byte)
  | ext (a : Word)
  | idx (f : IdxDirect)
  deriving DecidableEq, Repr

/-- The source of MOVB (R112, the MOV formats). -/
inductive MoveSource8 where
  | imm (v : Byte)
  | ext (a : Word)
  | idx (f : IdxShort)
  deriving DecidableEq, Repr

/-- The source of MOVW (R112, the MOV formats). -/
inductive MoveSource16 where
  | imm (v : Word)
  | ext (a : Word)
  | idx (f : IdxShort)
  deriving DecidableEq, Repr

/-- The destination of MOVB and MOVW (R112, the MOV formats). -/
inductive MoveDest where
  | ext (a : Word)
  | idx (f : IdxShort)
  deriving DecidableEq, Repr

/-- The operand of CALL: the direct forms carry the page, the indirect forms find it in memory (R112, R129). -/
inductive CallTarget where
  | ext (a : Word) (page : Byte)
  | idx (f : IdxDirect) (page : Byte)
  | indD (r : IdxBase)
  | ind16 (r : IdxBase) (n : Word)
  deriving DecidableEq, Repr

/-- The 8-bit registers of the transfer postbyte, codes 0 to 2 (R140). -/
inductive Reg8 where
  | a
  | b
  | ccr
  deriving DecidableEq, Repr

/-- The 16-bit registers of the transfer postbyte, codes 4 to 7 (R140). -/
inductive Reg16 where
  | d
  | x
  | y
  | sp
  deriving DecidableEq, Repr

/-- An operand of TFR or EXG (R140; code 3 is reserved, R141). -/
inductive Reg where
  | r8 (r : Reg8)
  | r16 (r : Reg16)
  deriving DecidableEq, Repr

/-- The counter of a loop primitive (R145, group `abdxysp`). -/
inductive LoopReg where
  | a
  | b
  | d
  | x
  | y
  | sp
  deriving DecidableEq, Repr

/-- Why bytes are no instruction (R149: the reserved sub-encodings; `truncated`: the byte list handed to the decoder
ends inside the instruction, which a step's fetch of six bytes never causes). -/
inductive DecodeError where
  | truncated
  | reservedIndexed
  | reservedTransfer
  | reservedLoop
  deriving DecidableEq, Repr

/-- The instructions: one constructor per mnemonic of spec/opcode_table.json. -/
inductive Instr where
  /-- BGND: 47_system.md R548. -/
  | bgnd
  /-- MEM: 46_fuzzy.md R521. -/
  | mem
  /-- INY: 42_arithmetic.md R278. -/
  | iny
  /-- DEY: 42_arithmetic.md R283. -/
  | dey
  /-- JMP: 45_branch_jump_call.md R495. -/
  | jmp (m : RmwOperand)
  /-- BSR: 45_branch_jump_call.md R497. -/
  | bsr (rel : Byte)
  /-- INX: 42_arithmetic.md R277. -/
  | inx
  /-- DEX: 42_arithmetic.md R282. -/
  | dex
  /-- RTC: 45_branch_jump_call.md R500. -/
  | rtc
  /-- RTI: 47_system.md R542. -/
  | rti
  /-- BSET: 43_logic_bit_shift.md R343. -/
  | bset (m : BitOperand) (mask : Byte)
  /-- BCLR: 43_logic_bit_shift.md R342. -/
  | bclr (m : BitOperand) (mask : Byte)
  /-- BRSET: 45_branch_jump_call.md R481. -/
  | brset (m : BitOperand) (mask : Byte) (rel : Byte)
  /-- BRCLR: 45_branch_jump_call.md R480. -/
  | brclr (m : BitOperand) (mask : Byte) (rel : Byte)
  /-- ANDCC: 43_logic_bit_shift.md R334. -/
  | andcc (imm : Byte)
  /-- EDIV: 44_multiply_divide_minmax_table.md R394. -/
  | ediv
  /-- MUL: 44_multiply_divide_minmax_table.md R390. -/
  | mul
  /-- EMUL: 44_multiply_divide_minmax_table.md R391. -/
  | emul
  /-- ORCC: 43_logic_bit_shift.md R335. -/
  | orcc (imm : Byte)
  /-- JSR: 45_branch_jump_call.md R496. -/
  | jsr (m : MemOperand)
  /-- LEAY: 40_load_store_lea.md R176. -/
  | leay (f : IdxDirect)
  /-- LEAX: 40_load_store_lea.md R175. -/
  | leax (f : IdxDirect)
  /-- LEAS: 40_load_store_lea.md R174. -/
  | leas (f : IdxDirect)
  /-- BRA: 45_branch_jump_call.md R455. -/
  | bra (rel : Byte)
  /-- BRN: 45_branch_jump_call.md R456. -/
  | brn (rel : Byte)
  /-- BHI: 45_branch_jump_call.md R446. -/
  | bhi (rel : Byte)
  /-- BLS: 45_branch_jump_call.md R450. -/
  | bls (rel : Byte)
  /-- BCC: 45_branch_jump_call.md R441. -/
  | bcc (rel : Byte)
  /-- BHS: 45_branch_jump_call.md R447; second name of BCC (30_encoding.md R152). -/
  | bhs (rel : Byte)
  /-- BCS: 45_branch_jump_call.md R442. -/
  | bcs (rel : Byte)
  /-- BLO: 45_branch_jump_call.md R449; second name of BCS (30_encoding.md R152). -/
  | blo (rel : Byte)
  /-- BNE: 45_branch_jump_call.md R453. -/
  | bne (rel : Byte)
  /-- BEQ: 45_branch_jump_call.md R443. -/
  | beq (rel : Byte)
  /-- BVC: 45_branch_jump_call.md R457. -/
  | bvc (rel : Byte)
  /-- BVS: 45_branch_jump_call.md R458. -/
  | bvs (rel : Byte)
  /-- BPL: 45_branch_jump_call.md R454. -/
  | bpl (rel : Byte)
  /-- BMI: 45_branch_jump_call.md R452. -/
  | bmi (rel : Byte)
  /-- BGE: 45_branch_jump_call.md R444. -/
  | bge (rel : Byte)
  /-- BLT: 45_branch_jump_call.md R451. -/
  | blt (rel : Byte)
  /-- BGT: 45_branch_jump_call.md R445. -/
  | bgt (rel : Byte)
  /-- BLE: 45_branch_jump_call.md R448. -/
  | ble (rel : Byte)
  /-- PULX: 41_move_transfer_stack.md R240. -/
  | pulx
  /-- PULY: 41_move_transfer_stack.md R241. -/
  | puly
  /-- PULA: 41_move_transfer_stack.md R236. -/
  | pula
  /-- PULB: 41_move_transfer_stack.md R237. -/
  | pulb
  /-- PSHX: 41_move_transfer_stack.md R234. -/
  | pshx
  /-- PSHY: 41_move_transfer_stack.md R235. -/
  | pshy
  /-- PSHA: 41_move_transfer_stack.md R230. -/
  | psha
  /-- PSHB: 41_move_transfer_stack.md R231. -/
  | pshb
  /-- PULC: 41_move_transfer_stack.md R238. -/
  | pulc
  /-- PSHC: 41_move_transfer_stack.md R232. -/
  | pshc
  /-- PULD: 41_move_transfer_stack.md R239. -/
  | puld
  /-- PSHD: 41_move_transfer_stack.md R233. -/
  | pshd
  /-- wavr: 46_fuzzy.md R529. -/
  | wavr
  /-- RTS: 45_branch_jump_call.md R498. -/
  | rts
  /-- WAI: 47_system.md R546. -/
  | wai
  /-- SWI: 47_system.md R540. -/
  | swi
  /-- NEGA: 42_arithmetic.md R285. -/
  | nega
  /-- COMA: 43_logic_bit_shift.md R329. -/
  | coma
  /-- INCA: 42_arithmetic.md R275. -/
  | inca
  /-- DECA: 42_arithmetic.md R280. -/
  | deca
  /-- LSRA: 43_logic_bit_shift.md R359. -/
  | lsra
  /-- ROLA: 43_logic_bit_shift.md R363. -/
  | rola
  /-- RORA: 43_logic_bit_shift.md R366. -/
  | rora
  /-- ASRA: 43_logic_bit_shift.md R356. -/
  | asra
  /-- LSLA: 43_logic_bit_shift.md R352. -/
  | lsla
  /-- ASLA: 43_logic_bit_shift.md R352; second name of LSLA (30_encoding.md R152). -/
  | asla
  /-- LSRD: 43_logic_bit_shift.md R361. -/
  | lsrd
  /-- CALL: 45_branch_jump_call.md R499. -/
  | call (t : CallTarget)
  /-- NEGB: 42_arithmetic.md R286. -/
  | negb
  /-- COMB: 43_logic_bit_shift.md R330. -/
  | comb
  /-- INCB: 42_arithmetic.md R276. -/
  | incb
  /-- DECB: 42_arithmetic.md R281. -/
  | decb
  /-- LSRB: 43_logic_bit_shift.md R360. -/
  | lsrb
  /-- ROLB: 43_logic_bit_shift.md R364. -/
  | rolb
  /-- RORB: 43_logic_bit_shift.md R367. -/
  | rorb
  /-- ASRB: 43_logic_bit_shift.md R357. -/
  | asrb
  /-- LSLB: 43_logic_bit_shift.md R353. -/
  | lslb
  /-- ASLB: 43_logic_bit_shift.md R353; second name of LSLB (30_encoding.md R152). -/
  | aslb
  /-- LSLD: 43_logic_bit_shift.md R354. -/
  | lsld
  /-- ASLD: 43_logic_bit_shift.md R354; second name of LSLD (30_encoding.md R152). -/
  | asld
  /-- STAA: 40_load_store_lea.md R168. -/
  | staa (m : MemOperand)
  /-- STAB: 40_load_store_lea.md R169. -/
  | stab (m : MemOperand)
  /-- STD: 40_load_store_lea.md R170. -/
  | std (m : MemOperand)
  /-- STY: 40_load_store_lea.md R173. -/
  | sty (m : MemOperand)
  /-- STX: 40_load_store_lea.md R172. -/
  | stx (m : MemOperand)
  /-- STS: 40_load_store_lea.md R171. -/
  | sts (m : MemOperand)
  /-- NEG: 42_arithmetic.md R284. -/
  | neg (m : RmwOperand)
  /-- COM: 43_logic_bit_shift.md R328. -/
  | com (m : RmwOperand)
  /-- INC: 42_arithmetic.md R274. -/
  | inc (m : RmwOperand)
  /-- DEC: 42_arithmetic.md R279. -/
  | dec (m : RmwOperand)
  /-- LSR: 43_logic_bit_shift.md R358. -/
  | lsr (m : RmwOperand)
  /-- ROL: 43_logic_bit_shift.md R362. -/
  | rol (m : RmwOperand)
  /-- ROR: 43_logic_bit_shift.md R365. -/
  | ror (m : RmwOperand)
  /-- ASR: 43_logic_bit_shift.md R355. -/
  | asr (m : RmwOperand)
  /-- LSL: 43_logic_bit_shift.md R351. -/
  | lsl (m : RmwOperand)
  /-- ASL: 43_logic_bit_shift.md R351; second name of LSL (30_encoding.md R152). -/
  | asl (m : RmwOperand)
  /-- CLR: 43_logic_bit_shift.md R331. -/
  | clr (m : RmwOperand)
  /-- SUBA: 42_arithmetic.md R260. -/
  | suba (o : Operand8)
  /-- CMPA: 42_arithmetic.md R264. -/
  | cmpa (o : Operand8)
  /-- SBCA: 42_arithmetic.md R258. -/
  | sbca (o : Operand8)
  /-- SUBD: 42_arithmetic.md R262. -/
  | subd (o : Operand16)
  /-- ANDA: 43_logic_bit_shift.md R320. -/
  | anda (o : Operand8)
  /-- BITA: 43_logic_bit_shift.md R326. -/
  | bita (o : Operand8)
  /-- LDAA: 40_load_store_lea.md R162. -/
  | ldaa (o : Operand8)
  /-- CLRA: 43_logic_bit_shift.md R332. -/
  | clra
  /-- EORA: 43_logic_bit_shift.md R324. -/
  | eora (o : Operand8)
  /-- ADCA: 42_arithmetic.md R252. -/
  | adca (o : Operand8)
  /-- ORAA: 43_logic_bit_shift.md R322. -/
  | oraa (o : Operand8)
  /-- ADDA: 42_arithmetic.md R254. -/
  | adda (o : Operand8)
  /-- CPD: 42_arithmetic.md R266. -/
  | cpd (o : Operand16)
  /-- CPY: 42_arithmetic.md R269. -/
  | cpy (o : Operand16)
  /-- CPX: 42_arithmetic.md R268. -/
  | cpx (o : Operand16)
  /-- CPS: 42_arithmetic.md R267. -/
  | cps (o : Operand16)
  /-- TSTA: 42_arithmetic.md R271. -/
  | tsta
  /-- NOP: 47_system.md R543. -/
  | nop
  /-- SUBB: 42_arithmetic.md R261. -/
  | subb (o : Operand8)
  /-- CMPB: 42_arithmetic.md R265. -/
  | cmpb (o : Operand8)
  /-- SBCB: 42_arithmetic.md R259. -/
  | sbcb (o : Operand8)
  /-- ADDD: 42_arithmetic.md R256. -/
  | addd (o : Operand16)
  /-- ANDB: 43_logic_bit_shift.md R321. -/
  | andb (o : Operand8)
  /-- BITB: 43_logic_bit_shift.md R327. -/
  | bitb (o : Operand8)
  /-- LDAB: 40_load_store_lea.md R163. -/
  | ldab (o : Operand8)
  /-- CLRB: 43_logic_bit_shift.md R333. -/
  | clrb
  /-- EORB: 43_logic_bit_shift.md R325. -/
  | eorb (o : Operand8)
  /-- ADCB: 42_arithmetic.md R253. -/
  | adcb (o : Operand8)
  /-- ORAB: 43_logic_bit_shift.md R323. -/
  | orab (o : Operand8)
  /-- ADDB: 42_arithmetic.md R255. -/
  | addb (o : Operand8)
  /-- LDD: 40_load_store_lea.md R164. -/
  | ldd (o : Operand16)
  /-- LDY: 40_load_store_lea.md R167. -/
  | ldy (o : Operand16)
  /-- LDX: 40_load_store_lea.md R166. -/
  | ldx (o : Operand16)
  /-- LDS: 40_load_store_lea.md R165. -/
  | lds (o : Operand16)
  /-- TSTB: 42_arithmetic.md R272. -/
  | tstb
  /-- TST: 42_arithmetic.md R270. -/
  | tst (m : RmwOperand)
  /-- DBEQ: 45_branch_jump_call.md R486. -/
  | dbeq (r : LoopReg) (off : BitVec 9)
  /-- DBNE: 45_branch_jump_call.md R487. -/
  | dbne (r : LoopReg) (off : BitVec 9)
  /-- TBEQ: 45_branch_jump_call.md R490. -/
  | tbeq (r : LoopReg) (off : BitVec 9)
  /-- TBNE: 45_branch_jump_call.md R491. -/
  | tbne (r : LoopReg) (off : BitVec 9)
  /-- IBEQ: 45_branch_jump_call.md R488. -/
  | ibeq (r : LoopReg) (off : BitVec 9)
  /-- IBNE: 45_branch_jump_call.md R489. -/
  | ibne (r : LoopReg) (off : BitVec 9)
  /-- TFR: 41_move_transfer_stack.md R210. -/
  | tfr (r1 : Reg) (r2 : Reg)
  /-- EXG: 41_move_transfer_stack.md R213. -/
  | exg (r1 : Reg) (r2 : Reg)
  /-- SEX: 41_move_transfer_stack.md R217; second name of TFR (30_encoding.md R152). -/
  | sex (r1 : Reg8) (r2 : Reg16)
  /-- TAP: 41_move_transfer_stack.md R218; second name of TFR A,CCR (30_encoding.md R152). -/
  | tap
  /-- TPA: 41_move_transfer_stack.md R219; second name of TFR CCR,A (30_encoding.md R152). -/
  | tpa
  /-- TSX: 41_move_transfer_stack.md R220; second name of TFR SP,X (30_encoding.md R152). -/
  | tsx
  /-- TSY: 41_move_transfer_stack.md R221; second name of TFR SP,Y (30_encoding.md R152). -/
  | tsy
  /-- TXS: 41_move_transfer_stack.md R222; second name of TFR X,SP (30_encoding.md R152). -/
  | txs
  /-- TYS: 41_move_transfer_stack.md R223; second name of TFR Y,SP (30_encoding.md R152). -/
  | tys
  /-- XGDX: 41_move_transfer_stack.md R224; second name of EXG D,X (30_encoding.md R152). -/
  | xgdx
  /-- XGDY: 41_move_transfer_stack.md R225; second name of EXG D,Y (30_encoding.md R152). -/
  | xgdy
  /-- ABX: 40_load_store_lea.md R177; second name of LEAX B,X (30_encoding.md R152). -/
  | abx
  /-- ABY: 40_load_store_lea.md R178; second name of LEAY B,Y (30_encoding.md R152). -/
  | aby
  /-- DES: 40_load_store_lea.md R179; second name of LEAS -1,SP (30_encoding.md R152). -/
  | des
  /-- INS: 40_load_store_lea.md R180; second name of LEAS 1,SP (30_encoding.md R152). -/
  | ins
  /-- CLC: 43_logic_bit_shift.md R336; second name of ANDCC #$FE (30_encoding.md R152). -/
  | clc
  /-- CLI: 43_logic_bit_shift.md R337; second name of ANDCC #$EF (30_encoding.md R152). -/
  | cli
  /-- CLV: 43_logic_bit_shift.md R338; second name of ANDCC #$FD (30_encoding.md R152). -/
  | clv
  /-- SEC: 43_logic_bit_shift.md R339; second name of ORCC #$01 (30_encoding.md R152). -/
  | sec
  /-- SEI: 43_logic_bit_shift.md R340; second name of ORCC #$10 (30_encoding.md R152). -/
  | sei
  /-- SEV: 43_logic_bit_shift.md R341; second name of ORCC #$02 (30_encoding.md R152). -/
  | sev
  /-- MOVW: 41_move_transfer_stack.md R201. -/
  | movw (src : MoveSource16) (dst : MoveDest)
  /-- MOVB: 41_move_transfer_stack.md R200. -/
  | movb (src : MoveSource8) (dst : MoveDest)
  /-- ABA: 42_arithmetic.md R251. -/
  | aba
  /-- DAA: 42_arithmetic.md R273. -/
  | daa
  /-- TAB: 41_move_transfer_stack.md R226. -/
  | tab
  /-- TBA: 41_move_transfer_stack.md R227. -/
  | tba
  /-- IDIV: 44_multiply_divide_minmax_table.md R397. -/
  | idiv
  /-- FDIV: 44_multiply_divide_minmax_table.md R396. -/
  | fdiv
  /-- EMULS: 44_multiply_divide_minmax_table.md R392. -/
  | emuls
  /-- EDIVS: 44_multiply_divide_minmax_table.md R395. -/
  | edivs
  /-- IDIVS: 44_multiply_divide_minmax_table.md R398. -/
  | idivs
  /-- SBA: 42_arithmetic.md R257. -/
  | sba
  /-- CBA: 42_arithmetic.md R263. -/
  | cba
  /-- REV: 46_fuzzy.md R523. -/
  | rev
  /-- REVW: 46_fuzzy.md R525. -/
  | revw
  /-- WAV: 46_fuzzy.md R527. -/
  | wav
  /-- STOP: 47_system.md R547. -/
  | stop
  /-- EMACS: 44_multiply_divide_minmax_table.md R400. -/
  | emacs (addr : Word)
  /-- MAXA: 44_multiply_divide_minmax_table.md R410. -/
  | maxa (f : IdxFull)
  /-- MINA: 44_multiply_divide_minmax_table.md R412. -/
  | mina (f : IdxFull)
  /-- EMAXD: 44_multiply_divide_minmax_table.md R414. -/
  | emaxd (f : IdxFull)
  /-- EMIND: 44_multiply_divide_minmax_table.md R416. -/
  | emind (f : IdxFull)
  /-- MAXM: 44_multiply_divide_minmax_table.md R411. -/
  | maxm (f : IdxFull)
  /-- MINM: 44_multiply_divide_minmax_table.md R413. -/
  | minm (f : IdxFull)
  /-- EMAXM: 44_multiply_divide_minmax_table.md R415. -/
  | emaxm (f : IdxFull)
  /-- EMINM: 44_multiply_divide_minmax_table.md R417. -/
  | eminm (f : IdxFull)
  /-- TBL: 44_multiply_divide_minmax_table.md R430. -/
  | tbl (f : IdxShort)
  /-- ETBL: 44_multiply_divide_minmax_table.md R431. -/
  | etbl (f : IdxShort)
  /-- LBRA: 45_branch_jump_call.md R474. -/
  | lbra (rel : Word)
  /-- LBRN: 45_branch_jump_call.md R475. -/
  | lbrn (rel : Word)
  /-- LBHI: 45_branch_jump_call.md R465. -/
  | lbhi (rel : Word)
  /-- LBLS: 45_branch_jump_call.md R469. -/
  | lbls (rel : Word)
  /-- LBCC: 45_branch_jump_call.md R460. -/
  | lbcc (rel : Word)
  /-- LBHS: 45_branch_jump_call.md R466; second name of LBCC (30_encoding.md R152). -/
  | lbhs (rel : Word)
  /-- LBCS: 45_branch_jump_call.md R461. -/
  | lbcs (rel : Word)
  /-- LBLO: 45_branch_jump_call.md R468; second name of LBCS (30_encoding.md R152). -/
  | lblo (rel : Word)
  /-- LBNE: 45_branch_jump_call.md R472. -/
  | lbne (rel : Word)
  /-- LBEQ: 45_branch_jump_call.md R462. -/
  | lbeq (rel : Word)
  /-- LBVC: 45_branch_jump_call.md R476. -/
  | lbvc (rel : Word)
  /-- LBVS: 45_branch_jump_call.md R477. -/
  | lbvs (rel : Word)
  /-- LBPL: 45_branch_jump_call.md R473. -/
  | lbpl (rel : Word)
  /-- LBMI: 45_branch_jump_call.md R471. -/
  | lbmi (rel : Word)
  /-- LBGE: 45_branch_jump_call.md R463. -/
  | lbge (rel : Word)
  /-- LBLT: 45_branch_jump_call.md R470. -/
  | lblt (rel : Word)
  /-- LBGT: 45_branch_jump_call.md R464. -/
  | lbgt (rel : Word)
  /-- LBLE: 45_branch_jump_call.md R467. -/
  | lble (rel : Word)
  /-- TRAP: 47_system.md R541. -/
  | trap (tn : Byte)
  deriving DecidableEq, Repr

end Sys2Proof
end

