-- ==== Sys2Proof/WellFormed.lean ====
section
/-!
DEFINITION. Which terms of `Instr` are instructions of the machine. The operand classes of spec/30_encoding.md R129,
R141 and R145 are types of Syntax.lean, so a form outside its class is no term at all; what is left to check is the
number of a TRAP.
-/

namespace Sys2Proof

/-- The numbers of TRAP: "tn = $30-$39 or tn = $40-$FF" (30_encoding.md R148, R149). -/
def trapNumberOk (tn : Byte) : Bool :=
  (0x30 ≤ tn && tn ≤ 0x39) || 0x40 ≤ tn

/-- A well-formed instruction: a TRAP has one of its numbers; every other term is well formed by its type. -/
def Instr.wf : Instr → Bool
  | .trap tn => trapNumberOk tn
  | _ => true

end Sys2Proof
end

