-- ==== Sys2Proof/Decode.lean ====
section
/-!
DEFINITION. From bytes to an instruction and back (spec/30_encoding.md). `decode` is total on any bytes: it answers an
instruction and the bytes after it, or a `DecodeError` by name. The opcode maps are tables read as R147 and R148 print
them; the postbyte layouts are R120, R140 and R145 (PRESUMED K3 to K7, log entry 16). `encode` is written from the same
rules and knows nothing of the maps.
-/

namespace Sys2Proof

/-- The decoder's answer: an instruction and the bytes that follow it, or why there is none. -/
inductive Decoded where
  | ok (i : Instr) (rest : List Byte)
  | bad (e : DecodeError)
  deriving DecidableEq, Repr

/-! ## Reading bytes -/

/-- Take one byte (R111 step 3). -/
def takeByte (bs : List Byte) (k : Byte → List Byte → Decoded) : Decoded :=
  match bs with
  | [] => .bad .truncated
  | b :: rest => k b rest

/-- Take two bytes as a 16-bit value, the high byte first (R113, 20_memory.md R82). -/
def takeWord (bs : List Byte) (k : Word → List Byte → Decoded) : Decoded :=
  takeByte bs fun hi r => takeByte r fun lo r => k (hi ++ lo) r

/-! ## The indexed postbyte, R120 to R128 -/

/-- What a postbyte says before its extension bytes are read (R120). -/
inductive XbForm where
  | short (f : IdxShort)
  | nine (r : IdxBase) (s : BitVec 1)
  | sixteen (r : IdxBase)
  | ind16 (r : IdxBase)
  | indD (r : IdxBase)
  deriving DecidableEq, Repr

/-- The base register codes: 00 X, 01 Y, 10 SP, 11 PC (R120). -/
def idxBaseOf (c : BitVec 2) : IdxBase :=
  if c = 0 then .x else if c = 1 then .y else if c = 2 then .sp else .pc

/-- The rows of R120's table whose bits 7 to 5 are 111: three bits `f` choose the form (R123 to R127). -/
def xbForm111 (r : IdxBase) (f : BitVec 3) : XbForm :=
  if f = 0 then .nine r 0
  else if f = 1 then .nine r 1
  else if f = 2 then .sixteen r
  else if f = 3 then .ind16 r
  else if f = 4 then .short (.acc r .a)
  else if f = 5 then .short (.acc r .b)
  else if f = 6 then .short (.acc r .d)
  else .indD r

/-- The automatic forms: bit 4 is 0 for pre and 1 for post (R122). -/
def xbFormAuto (r : AutoBase) (p : Bool) (n : BitVec 4) : XbForm :=
  if p then .short (.post r n) else .short (.pre r n)

/-- The postbyte map of R120: bit 5 clear is the 5-bit form, set with bits 7:6 below 11 an automatic form, and 111 in
bits 7:5 one of the eight other forms. -/
def xbForm (xb : Byte) : XbForm :=
  let rr := xb.extractLsb' 6 2
  if xb.getLsbD 5 = false then .short (.const5 (idxBaseOf rr) (xb.extractLsb' 0 5))
  else if rr = 0 then xbFormAuto .x (xb.getLsbD 4) (xb.extractLsb' 0 4)
  else if rr = 1 then xbFormAuto .y (xb.getLsbD 4) (xb.extractLsb' 0 4)
  else if rr = 2 then xbFormAuto .sp (xb.getLsbD 4) (xb.extractLsb' 0 4)
  else xbForm111 (idxBaseOf (xb.extractLsb' 3 2)) (xb.extractLsb' 0 3)

/-- Take a postbyte and its extension bytes: `ff` for the 9-bit form (R124), `ee ff` for the 16-bit forms (R125, R126). -/
def takeIdx (bs : List Byte) (k : IdxFull → List Byte → Decoded) : Decoded :=
  takeByte bs fun xb r =>
    match xbForm xb with
    | .short f => k (.direct (.short f)) r
    | .nine b s => takeByte r fun ff r => k (.direct (.const9 b (s ++ ff))) r
    | .sixteen b => takeWord r fun n r => k (.direct (.const16 b n)) r
    | .ind16 b => takeWord r fun n r => k (.ind16 b n) r
    | .indD b => k (.indD b) r

/-- Take an indexed operand of the class *no indirect* (R129); an indirect form is reserved (U4, D11). -/
def takeIdxDirect (bs : List Byte) (k : IdxDirect → List Byte → Decoded) : Decoded :=
  takeIdx bs fun f r =>
    match f with
    | .direct f => k f r
    | .indD _ => .bad .reservedIndexed
    | .ind16 _ _ => .bad .reservedIndexed

/-- Take an indexed operand of the class *no extension* (R129); every other postbyte is reserved (U4, D11). -/
def takeIdxShort (bs : List Byte) (k : IdxShort → List Byte → Decoded) : Decoded :=
  takeByte bs fun xb r =>
    match xbForm xb with
    | .short f => k f r
    | .nine _ _ => .bad .reservedIndexed
    | .sixteen _ => .bad .reservedIndexed
    | .ind16 _ => .bad .reservedIndexed
    | .indD _ => .bad .reservedIndexed

/-! ## The transfer/exchange postbyte, R140 to R142 -/

/-- The register codes of R140: 0 A, 1 B, 2 CCR, 4 D, 5 X, 6 Y, 7 SP; 3 is a temporary, reserved (R141). -/
def regOf (c : BitVec 3) : Option Reg :=
  if c = 0 then some (.r8 .a)
  else if c = 1 then some (.r8 .b)
  else if c = 2 then some (.r8 .ccr)
  else if c = 3 then none
  else if c = 4 then some (.r16 .d)
  else if c = 5 then some (.r16 .x)
  else if c = 6 then some (.r16 .y)
  else some (.r16 .sp)

/-- The postbyte `eb`: bit 7 chooses EXG, bits 6:4 the first operand, bits 2:0 the second; bit 3 set or a register code
3 is reserved (R140, R141). -/
def transferOf (eb : Byte) : Option Instr :=
  if eb.getLsbD 3 then none
  else
    match regOf (eb.extractLsb' 4 3), regOf (eb.extractLsb' 0 3) with
    | some r1, some r2 => some (if eb.getLsbD 7 then .exg r1 r2 else .tfr r1 r2)
    | _, _ => none

/-! ## The loop postbyte, R145 -/

/-- The counter codes of R145; 010 and 011 are reserved. -/
def loopRegOf (c : BitVec 3) : Option LoopReg :=
  if c = 0 then some .a
  else if c = 1 then some .b
  else if c = 2 then none
  else if c = 3 then none
  else if c = 4 then some .d
  else if c = 5 then some .x
  else if c = 6 then some .y
  else some .sp

/-- The operations of R145; 110 and 111 are reserved. -/
def loopOpOf (op : BitVec 3) : Option (LoopReg → BitVec 9 → Instr) :=
  if op = 0 then some .dbeq
  else if op = 1 then some .dbne
  else if op = 2 then some .tbeq
  else if op = 3 then some .tbne
  else if op = 4 then some .ibeq
  else if op = 5 then some .ibne
  else none

/-- The postbyte `lb` and the offset byte `rr`: bit 4 of `lb` is the sign of the 9-bit offset (R116, R145). -/
def loopOf (lb rr : Byte) : Option Instr :=
  if lb.getLsbD 3 then none
  else
    match loopOpOf (lb.extractLsb' 5 3), loopRegOf (lb.extractLsb' 0 3) with
    | some op, some r => some (op r (lb.extractLsb' 4 1 ++ rr))
    | _, _ => none

/-! ## Formats and the opcode maps -/

/-- What follows an opcode: the formats of R112, each holding how its operands make the instruction. -/
inductive OpFormat where
  /-- INH and TRAP: nothing follows. -/
  | inh (i : Instr)
  /-- IMM8, DIR, REL8: one byte follows. -/
  | byte (f : Byte → Instr)
  /-- IMM16, EXT, REL16: two bytes follow. -/
  | word (f : Word → Instr)
  /-- IDX*, class *full*. -/
  | idx (f : IdxFull → Instr)
  /-- IDX*, class *no indirect*. -/
  | idxDirect (f : IdxDirect → Instr)
  /-- IDX*, class *no extension*. -/
  | idxShort (f : IdxShort → Instr)
  /-- DIR-MSK. -/
  | dirMsk (f : BitOperand → Byte → Instr)
  /-- EXT-MSK. -/
  | extMsk (f : BitOperand → Byte → Instr)
  /-- IDX-MSK. -/
  | idxMsk (f : BitOperand → Byte → Instr)
  /-- DIR-MSK-REL. -/
  | dirMskRel (f : BitOperand → Byte → Byte → Instr)
  /-- EXT-MSK-REL. -/
  | extMskRel (f : BitOperand → Byte → Byte → Instr)
  /-- IDX-MSK-REL. -/
  | idxMskRel (f : BitOperand → Byte → Byte → Instr)
  /-- EXT-PG, CALL extended. -/
  | callExt
  /-- IDX-PG and IDX-IND, CALL indexed. -/
  | callIdx
  /-- XFER. -/
  | transfer
  /-- LOOP. -/
  | loop
  /-- MOV-IMM8-EXT, MOV-IMM8-IDX, MOV-IMM16-EXT, MOV-IMM16-IDX, MOV-EXT-EXT, MOV-EXT-IDX, MOV-IDX-EXT, MOV-IDX-IDX. -/
  | movImm8Ext
  | movImm8Idx
  | movImm16Ext
  | movImm16Idx
  | movExtExt (f : Word → Word → Instr)
  | movExtIdx (f : Word → IdxShort → Instr)
  | movIdxExt (f : IdxShort → Word → Instr)
  | movIdxIdx (f : IdxShort → IdxShort → Instr)

/-- IMM8 of an 8-bit register instruction. -/
abbrev OpFormat.i8 (f : Operand8 → Instr) : OpFormat := .byte fun v => f (.imm v)
/-- DIR of an 8-bit register instruction. -/
abbrev OpFormat.d8 (f : Operand8 → Instr) : OpFormat := .byte fun a => f (.mem (.dir a))
/-- IDX* of an 8-bit register instruction. -/
abbrev OpFormat.x8 (f : Operand8 → Instr) : OpFormat := .idx fun x => f (.mem (.idx x))
/-- EXT of an 8-bit register instruction. -/
abbrev OpFormat.e8 (f : Operand8 → Instr) : OpFormat := .word fun a => f (.mem (.ext a))
/-- IMM16 of a 16-bit register instruction. -/
abbrev OpFormat.i16 (f : Operand16 → Instr) : OpFormat := .word fun v => f (.imm v)
/-- DIR of a 16-bit register instruction. -/
abbrev OpFormat.d16 (f : Operand16 → Instr) : OpFormat := .byte fun a => f (.mem (.dir a))
/-- IDX* of a 16-bit register instruction. -/
abbrev OpFormat.x16 (f : Operand16 → Instr) : OpFormat := .idx fun x => f (.mem (.idx x))
/-- EXT of a 16-bit register instruction. -/
abbrev OpFormat.e16 (f : Operand16 → Instr) : OpFormat := .word fun a => f (.mem (.ext a))
/-- DIR of a store or JSR. -/
abbrev OpFormat.dm (f : MemOperand → Instr) : OpFormat := .byte fun a => f (.dir a)
/-- IDX* of a store or JSR. -/
abbrev OpFormat.xm (f : MemOperand → Instr) : OpFormat := .idx fun x => f (.idx x)
/-- EXT of a store or JSR. -/
abbrev OpFormat.em (f : MemOperand → Instr) : OpFormat := .word fun a => f (.ext a)
/-- IDX* of a read-modify-write instruction, CLR, TST or JMP. -/
abbrev OpFormat.xr (f : RmwOperand → Instr) : OpFormat := .idx fun x => f (.idx x)
/-- EXT of a read-modify-write instruction, CLR, TST or JMP. -/
abbrev OpFormat.er (f : RmwOperand → Instr) : OpFormat := .word fun a => f (.ext a)


/-- Page one, row 0 (R147). -/
def pageOneRow0 : List OpFormat :=
  [.inh .bgnd, .inh .mem, .inh .iny, .inh .dey, .loop, .xr .jmp, .er .jmp, .byte .bsr, .inh .inx, .inh .dex,
   .inh .rtc, .inh .rti, .idxMsk .bset, .idxMsk .bclr, .idxMskRel .brset, .idxMskRel .brclr]

/-- Page one, row 1 (R147); the cell of the prebyte $18 is never looked up (`decode`). -/
def pageOneRow1 : List OpFormat :=
  [.byte .andcc, .inh .ediv, .inh .mul, .inh .emul, .byte .orcc, .xm .jsr, .em .jsr, .dm .jsr, .inh .nop,
   .idxDirect .leay, .idxDirect .leax, .idxDirect .leas, .extMsk .bset, .extMsk .bclr, .extMskRel .brset,
   .extMskRel .brclr]

/-- Page one, row 2 (R147). -/
def pageOneRow2 : List OpFormat :=
  [.byte .bra, .byte .brn, .byte .bhi, .byte .bls, .byte .bcc, .byte .bcs, .byte .bne, .byte .beq, .byte .bvc,
   .byte .bvs, .byte .bpl, .byte .bmi, .byte .bge, .byte .blt, .byte .bgt, .byte .ble]

/-- Page one, row 3 (R147). -/
def pageOneRow3 : List OpFormat :=
  [.inh .pulx, .inh .puly, .inh .pula, .inh .pulb, .inh .pshx, .inh .pshy, .inh .psha, .inh .pshb, .inh .pulc,
   .inh .pshc, .inh .puld, .inh .pshd, .inh .wavr, .inh .rts, .inh .wai, .inh .swi]

/-- Page one, row 4 (R147). -/
def pageOneRow4 : List OpFormat :=
  [.inh .nega, .inh .coma, .inh .inca, .inh .deca, .inh .lsra, .inh .rola, .inh .rora, .inh .asra, .inh .lsla,
   .inh .lsrd, .callExt, .callIdx, .dirMsk .bset, .dirMsk .bclr, .dirMskRel .brset, .dirMskRel .brclr]

/-- Page one, row 5 (R147). -/
def pageOneRow5 : List OpFormat :=
  [.inh .negb, .inh .comb, .inh .incb, .inh .decb, .inh .lsrb, .inh .rolb, .inh .rorb, .inh .asrb, .inh .lslb,
   .inh .lsld, .dm .staa, .dm .stab, .dm .std, .dm .sty, .dm .stx, .dm .sts]

/-- Page one, row 6 (R147). -/
def pageOneRow6 : List OpFormat :=
  [.xr .neg, .xr .com, .xr .inc, .xr .dec, .xr .lsr, .xr .rol, .xr .ror, .xr .asr, .xr .lsl, .xr .clr,
   .xm .staa, .xm .stab, .xm .std, .xm .sty, .xm .stx, .xm .sts]

/-- Page one, row 7 (R147). -/
def pageOneRow7 : List OpFormat :=
  [.er .neg, .er .com, .er .inc, .er .dec, .er .lsr, .er .rol, .er .ror, .er .asr, .er .lsl, .er .clr,
   .em .staa, .em .stab, .em .std, .em .sty, .em .stx, .em .sts]

/-- Page one, row 8 (R147). -/
def pageOneRow8 : List OpFormat :=
  [.i8 .suba, .i8 .cmpa, .i8 .sbca, .i16 .subd, .i8 .anda, .i8 .bita, .i8 .ldaa, .inh .clra, .i8 .eora,
   .i8 .adca, .i8 .oraa, .i8 .adda, .i16 .cpd, .i16 .cpy, .i16 .cpx, .i16 .cps]

/-- Page one, row 9 (R147). -/
def pageOneRow9 : List OpFormat :=
  [.d8 .suba, .d8 .cmpa, .d8 .sbca, .d16 .subd, .d8 .anda, .d8 .bita, .d8 .ldaa, .inh .tsta, .d8 .eora,
   .d8 .adca, .d8 .oraa, .d8 .adda, .d16 .cpd, .d16 .cpy, .d16 .cpx, .d16 .cps]

/-- Page one, row A (R147). -/
def pageOneRowA : List OpFormat :=
  [.x8 .suba, .x8 .cmpa, .x8 .sbca, .x16 .subd, .x8 .anda, .x8 .bita, .x8 .ldaa, .inh .nop, .x8 .eora,
   .x8 .adca, .x8 .oraa, .x8 .adda, .x16 .cpd, .x16 .cpy, .x16 .cpx, .x16 .cps]

/-- Page one, row B (R147). -/
def pageOneRowB : List OpFormat :=
  [.e8 .suba, .e8 .cmpa, .e8 .sbca, .e16 .subd, .e8 .anda, .e8 .bita, .e8 .ldaa, .transfer, .e8 .eora,
   .e8 .adca, .e8 .oraa, .e8 .adda, .e16 .cpd, .e16 .cpy, .e16 .cpx, .e16 .cps]

/-- Page one, row C (R147). -/
def pageOneRowC : List OpFormat :=
  [.i8 .subb, .i8 .cmpb, .i8 .sbcb, .i16 .addd, .i8 .andb, .i8 .bitb, .i8 .ldab, .inh .clrb, .i8 .eorb,
   .i8 .adcb, .i8 .orab, .i8 .addb, .i16 .ldd, .i16 .ldy, .i16 .ldx, .i16 .lds]

/-- Page one, row D (R147). -/
def pageOneRowD : List OpFormat :=
  [.d8 .subb, .d8 .cmpb, .d8 .sbcb, .d16 .addd, .d8 .andb, .d8 .bitb, .d8 .ldab, .inh .tstb, .d8 .eorb,
   .d8 .adcb, .d8 .orab, .d8 .addb, .d16 .ldd, .d16 .ldy, .d16 .ldx, .d16 .lds]

/-- Page one, row E (R147). -/
def pageOneRowE : List OpFormat :=
  [.x8 .subb, .x8 .cmpb, .x8 .sbcb, .x16 .addd, .x8 .andb, .x8 .bitb, .x8 .ldab, .xr .tst, .x8 .eorb,
   .x8 .adcb, .x8 .orab, .x8 .addb, .x16 .ldd, .x16 .ldy, .x16 .ldx, .x16 .lds]

/-- Page one, row F (R147). -/
def pageOneRowF : List OpFormat :=
  [.e8 .subb, .e8 .cmpb, .e8 .sbcb, .e16 .addd, .e8 .andb, .e8 .bitb, .e8 .ldab, .er .tst, .e8 .eorb,
   .e8 .adcb, .e8 .orab, .e8 .addb, .e16 .ldd, .e16 .ldy, .e16 .ldx, .e16 .lds]

/-- Page two, second bytes $00 to $0F (R148). -/
def pageTwoRow0 : List OpFormat :=
  [.movImm16Idx, .movExtIdx fun a d => .movw (.ext a) (.idx d), .movIdxIdx fun s d => .movw (.idx s) (.idx d),
   .movImm16Ext, .movExtExt fun a d => .movw (.ext a) (.ext d), .movIdxExt fun s d => .movw (.idx s) (.ext d),
   .inh .aba, .inh .daa, .movImm8Idx, .movExtIdx fun a d => .movb (.ext a) (.idx d),
   .movIdxIdx fun s d => .movb (.idx s) (.idx d), .movImm8Ext, .movExtExt fun a d => .movb (.ext a) (.ext d),
   .movIdxExt fun s d => .movb (.idx s) (.ext d), .inh .tab, .inh .tba]

/-- Page two, second bytes $10 to $1F (R148). -/
def pageTwoRow1 : List OpFormat :=
  [.inh .idiv, .inh .fdiv, .word .emacs, .inh .emuls, .inh .edivs, .inh .idivs, .inh .sba, .inh .cba,
   .idx .maxa, .idx .mina, .idx .emaxd, .idx .emind, .idx .maxm, .idx .minm, .idx .emaxm, .idx .eminm]

/-- Page two, second bytes $20 to $2F (R148). -/
def pageTwoRow2 : List OpFormat :=
  [.word .lbra, .word .lbrn, .word .lbhi, .word .lbls, .word .lbcc, .word .lbcs, .word .lbne, .word .lbeq,
   .word .lbvc, .word .lbvs, .word .lbpl, .word .lbmi, .word .lbge, .word .lblt, .word .lbgt, .word .lble]

/-- Page two, second bytes $30 to $3F (R148). -/
def pageTwoRow3 : List OpFormat :=
  [.inh (.trap 0x30), .inh (.trap 0x31), .inh (.trap 0x32), .inh (.trap 0x33), .inh (.trap 0x34),
   .inh (.trap 0x35), .inh (.trap 0x36), .inh (.trap 0x37), .inh (.trap 0x38), .inh (.trap 0x39), .inh .rev,
   .inh .revw, .inh .wav, .idxShort .tbl, .inh .stop, .idxShort .etbl]

/-- The page-one map: row by the high nibble, column by the low nibble (R147). -/
def pageOne (op : Byte) : OpFormat :=
  let rows := [pageOneRow0, pageOneRow1, pageOneRow2, pageOneRow3, pageOneRow4, pageOneRow5, pageOneRow6, pageOneRow7,
    pageOneRow8, pageOneRow9, pageOneRowA, pageOneRowB, pageOneRowC, pageOneRowD, pageOneRowE, pageOneRowF]
  (rows.getD (op.toNat / 16) []).getD (op.toNat % 16) (.inh .nop)

/-- The page-two map (R148): every second byte from $40 is a TRAP. -/
def pageTwo (op : Byte) : OpFormat :=
  let rows := [pageTwoRow0, pageTwoRow1, pageTwoRow2, pageTwoRow3]
  if 0x40 ≤ op then .inh (.trap op)
  else (rows.getD (op.toNat / 16) []).getD (op.toNat % 16) (.inh (.trap op))

/-! ## Decoding -/

/-- Read the operand bytes of a format, in the order R112 lists them. -/
def readOperands (fmt : OpFormat) (bs : List Byte) : Decoded :=
  match fmt with
  | .inh i => .ok i bs
  | .byte f => takeByte bs fun v r => .ok (f v) r
  | .word f => takeWord bs fun v r => .ok (f v) r
  | .idx f => takeIdx bs fun x r => .ok (f x) r
  | .idxDirect f => takeIdxDirect bs fun x r => .ok (f x) r
  | .idxShort f => takeIdxShort bs fun x r => .ok (f x) r
  | .dirMsk f => takeByte bs fun a r => takeByte r fun m r => .ok (f (.dir a) m) r
  | .extMsk f => takeWord bs fun a r => takeByte r fun m r => .ok (f (.ext a) m) r
  | .idxMsk f => takeIdxDirect bs fun x r => takeByte r fun m r => .ok (f (.idx x) m) r
  | .dirMskRel f =>
    takeByte bs fun a r => takeByte r fun m r => takeByte r fun rel r => .ok (f (.dir a) m rel) r
  | .extMskRel f =>
    takeWord bs fun a r => takeByte r fun m r => takeByte r fun rel r => .ok (f (.ext a) m rel) r
  | .idxMskRel f =>
    takeIdxDirect bs fun x r => takeByte r fun m r => takeByte r fun rel r => .ok (f (.idx x) m rel) r
  | .callExt => takeWord bs fun a r => takeByte r fun pg r => .ok (.call (.ext a pg)) r
  | .callIdx =>
    takeIdx bs fun x r =>
      match x with
      | .direct f => takeByte r fun pg r => .ok (.call (.idx f pg)) r
      | .indD b => .ok (.call (.indD b)) r
      | .ind16 b n => .ok (.call (.ind16 b n)) r
  | .transfer =>
    takeByte bs fun eb r =>
      match transferOf eb with
      | some i => .ok i r
      | none => .bad .reservedTransfer
  | .loop =>
    takeByte bs fun lb r => takeByte r fun rr r =>
      match loopOf lb rr with
      | some i => .ok i r
      | none => .bad .reservedLoop
  | .movImm8Ext => takeByte bs fun v r => takeWord r fun d r => .ok (.movb (.imm v) (.ext d)) r
  | .movImm8Idx => takeIdxShort bs fun d r => takeByte r fun v r => .ok (.movb (.imm v) (.idx d)) r
  | .movImm16Ext => takeWord bs fun v r => takeWord r fun d r => .ok (.movw (.imm v) (.ext d)) r
  | .movImm16Idx => takeIdxShort bs fun d r => takeWord r fun v r => .ok (.movw (.imm v) (.idx d)) r
  | .movExtExt f => takeWord bs fun a r => takeWord r fun d r => .ok (f a d) r
  | .movExtIdx f => takeIdxShort bs fun d r => takeWord r fun a r => .ok (f a d) r
  | .movIdxExt f => takeIdxShort bs fun s r => takeWord r fun d r => .ok (f s d) r
  | .movIdxIdx f => takeIdxShort bs fun s r => takeIdxShort r fun d r => .ok (f s d) r

/-- The decoding procedure of R111: $18 is the only prebyte, and a second $18 is the page-two opcode MAXA (R149). -/
def decode (bs : List Byte) : Decoded :=
  takeByte bs fun b0 r =>
    if b0 = 0x18 then takeByte r fun op r => readOperands (pageTwo op) r
    else readOperands (pageOne b0) r

/-! ## Encoding -/

/-- A 16-bit value as its two bytes, the high byte first (R113, 20_memory.md R82). -/
def wordBytes (w : Word) : List Byte := [w.extractLsb' 8 8, w.extractLsb' 0 8]

/-- The code `rr` of a base register (R120). -/
def idxBaseCode : IdxBase → BitVec 2
  | .x => 0
  | .y => 1
  | .sp => 2
  | .pc => 3

/-- The code `rr` of an auto-modified base (R120, R122). -/
def autoBaseCode : AutoBase → BitVec 2
  | .x => 0
  | .y => 1
  | .sp => 2

/-- The code `aa` of an accumulator offset (R120). -/
def accOffsetCode : AccOffset → BitVec 2
  | .a => 0
  | .b => 1
  | .d => 2

/-- The postbyte of a form without extension (R120). -/
def idxShortByte : IdxShort → Byte
  | .const5 r n => idxBaseCode r ++ 0#1 ++ n
  | .pre r n => autoBaseCode r ++ 1#1 ++ 0#1 ++ n
  | .post r n => autoBaseCode r ++ 1#1 ++ 1#1 ++ n
  | .acc r o => 7#3 ++ idxBaseCode r ++ 1#1 ++ accOffsetCode o

/-- Postbyte and extension bytes of a form without indirection (R120, R124, R125). -/
def idxDirectBytes : IdxDirect → List Byte
  | .short f => [idxShortByte f]
  | .const9 r n => [7#3 ++ idxBaseCode r ++ 0#2 ++ n.extractLsb' 8 1, n.extractLsb' 0 8]
  | .const16 r n => (7#3 ++ idxBaseCode r ++ 2#3 : Byte) :: wordBytes n

/-- Postbyte and extension bytes of any indexed form (R120, R126, R127). -/
def idxFullBytes : IdxFull → List Byte
  | .direct f => idxDirectBytes f
  | .indD r => [7#3 ++ idxBaseCode r ++ 7#3]
  | .ind16 r n => (7#3 ++ idxBaseCode r ++ 3#3 : Byte) :: wordBytes n

/-- An 8-bit register instruction: its opcodes for immediate, direct, indexed and extended (R112, R147). -/
def operand8Bytes (i d x e : Byte) : Operand8 → List Byte
  | .imm v => [i, v]
  | .mem (.dir a) => [d, a]
  | .mem (.idx f) => x :: idxFullBytes f
  | .mem (.ext a) => e :: wordBytes a

/-- A 16-bit register instruction: its opcodes for immediate, direct, indexed and extended (R112, R147). -/
def operand16Bytes (i d x e : Byte) : Operand16 → List Byte
  | .imm v => i :: wordBytes v
  | .mem (.dir a) => [d, a]
  | .mem (.idx f) => x :: idxFullBytes f
  | .mem (.ext a) => e :: wordBytes a

/-- A store or JSR: its opcodes for direct, indexed and extended (R112, R147). -/
def memOperandBytes (d x e : Byte) : MemOperand → List Byte
  | .dir a => [d, a]
  | .idx f => x :: idxFullBytes f
  | .ext a => e :: wordBytes a

/-- A read-modify-write instruction, CLR, TST or JMP: its opcodes for indexed and extended (R112, R147). -/
def rmwOperandBytes (x e : Byte) : RmwOperand → List Byte
  | .idx f => x :: idxFullBytes f
  | .ext a => e :: wordBytes a

/-- A bit instruction up to its mask: its opcodes for direct, indexed and extended (R112, R147). -/
def bitOperandBytes (d x e : Byte) : BitOperand → List Byte
  | .dir a => [d, a]
  | .idx f => x :: idxDirectBytes f
  | .ext a => e :: wordBytes a

/-- The register codes of the transfer postbyte (R140). -/
def regCode : Reg → BitVec 3
  | .r8 .a => 0
  | .r8 .b => 1
  | .r8 .ccr => 2
  | .r16 .d => 4
  | .r16 .x => 5
  | .r16 .y => 6
  | .r16 .sp => 7

/-- The transfer postbyte (R140): `x` is 0 for a transfer and 1 for an exchange. -/
def transferBytes (x : BitVec 1) (r1 r2 : Reg) : List Byte :=
  [0xB7, x ++ regCode r1 ++ 0#1 ++ regCode r2]

/-- The counter codes of the loop postbyte (R145). -/
def loopRegCode : LoopReg → BitVec 3
  | .a => 0
  | .b => 1
  | .d => 4
  | .x => 5
  | .y => 6
  | .sp => 7

/-- A loop primitive: `04 lb rr` (R112, R145). -/
def loopBytes (op : BitVec 3) (r : LoopReg) (off : BitVec 9) : List Byte :=
  [0x04, op ++ off.extractLsb' 8 1 ++ 0#1 ++ loopRegCode r, off.extractLsb' 0 8]

/-- CALL: the direct forms end in the page, the indirect forms carry none (R112). -/
def callBytes : CallTarget → List Byte
  | .ext a pg => (0x4A : Byte) :: (wordBytes a ++ [pg])
  | .idx f pg => (0x4B : Byte) :: (idxDirectBytes f ++ [pg])
  | .indD r => (0x4B : Byte) :: idxFullBytes (.indD r)
  | .ind16 r n => (0x4B : Byte) :: idxFullBytes (.ind16 r n)

/-- MOVB: the six MOV formats of R112 (R148, second bytes $08 to $0D). -/
def movbBytes : MoveSource8 → MoveDest → List Byte
  | .imm v, .idx d => [0x18, 0x08, idxShortByte d, v]
  | .ext a, .idx d => [0x18, 0x09, idxShortByte d] ++ wordBytes a
  | .idx s, .idx d => [0x18, 0x0A, idxShortByte s, idxShortByte d]
  | .imm v, .ext d => [0x18, 0x0B, v] ++ wordBytes d
  | .ext a, .ext d => [0x18, 0x0C] ++ wordBytes a ++ wordBytes d
  | .idx s, .ext d => [0x18, 0x0D, idxShortByte s] ++ wordBytes d

/-- MOVW: the six MOV formats of R112 (R148, second bytes $00 to $05). -/
def movwBytes : MoveSource16 → MoveDest → List Byte
  | .imm v, .idx d => [0x18, 0x00, idxShortByte d] ++ wordBytes v
  | .ext a, .idx d => [0x18, 0x01, idxShortByte d] ++ wordBytes a
  | .idx s, .idx d => [0x18, 0x02, idxShortByte s, idxShortByte d]
  | .imm v, .ext d => [0x18, 0x03] ++ wordBytes v ++ wordBytes d
  | .ext a, .ext d => [0x18, 0x04] ++ wordBytes a ++ wordBytes d
  | .idx s, .ext d => [0x18, 0x05, idxShortByte s] ++ wordBytes d

/-- The bytes of an instruction, in increasing address order (R110, R112, R147, R148; the second names as R152). -/
def encode (i : Instr) : List Byte :=
  match i with
  | .bgnd => [0x00]
  | .mem => [0x01]
  | .iny => [0x02]
  | .dey => [0x03]
  | .jmp m => rmwOperandBytes 0x05 0x06 m
  | .bsr rel => [0x07, rel]
  | .inx => [0x08]
  | .dex => [0x09]
  | .rtc => [0x0A]
  | .rti => [0x0B]
  | .bset m mask => bitOperandBytes 0x4C 0x0C 0x1C m ++ [mask]
  | .bclr m mask => bitOperandBytes 0x4D 0x0D 0x1D m ++ [mask]
  | .brset m mask rel => bitOperandBytes 0x4E 0x0E 0x1E m ++ [mask, rel]
  | .brclr m mask rel => bitOperandBytes 0x4F 0x0F 0x1F m ++ [mask, rel]
  | .andcc imm => [0x10, imm]
  | .ediv => [0x11]
  | .mul => [0x12]
  | .emul => [0x13]
  | .orcc imm => [0x14, imm]
  | .jsr m => memOperandBytes 0x17 0x15 0x16 m
  | .leay f => [0x19] ++ idxDirectBytes f
  | .leax f => [0x1A] ++ idxDirectBytes f
  | .leas f => [0x1B] ++ idxDirectBytes f
  | .bra rel => [0x20, rel]
  | .brn rel => [0x21, rel]
  | .bhi rel => [0x22, rel]
  | .bls rel => [0x23, rel]
  | .bcc rel => [0x24, rel]
  | .bhs rel => [0x24, rel]
  | .bcs rel => [0x25, rel]
  | .blo rel => [0x25, rel]
  | .bne rel => [0x26, rel]
  | .beq rel => [0x27, rel]
  | .bvc rel => [0x28, rel]
  | .bvs rel => [0x29, rel]
  | .bpl rel => [0x2A, rel]
  | .bmi rel => [0x2B, rel]
  | .bge rel => [0x2C, rel]
  | .blt rel => [0x2D, rel]
  | .bgt rel => [0x2E, rel]
  | .ble rel => [0x2F, rel]
  | .pulx => [0x30]
  | .puly => [0x31]
  | .pula => [0x32]
  | .pulb => [0x33]
  | .pshx => [0x34]
  | .pshy => [0x35]
  | .psha => [0x36]
  | .pshb => [0x37]
  | .pulc => [0x38]
  | .pshc => [0x39]
  | .puld => [0x3A]
  | .pshd => [0x3B]
  | .wavr => [0x3C]
  | .rts => [0x3D]
  | .wai => [0x3E]
  | .swi => [0x3F]
  | .nega => [0x40]
  | .coma => [0x41]
  | .inca => [0x42]
  | .deca => [0x43]
  | .lsra => [0x44]
  | .rola => [0x45]
  | .rora => [0x46]
  | .asra => [0x47]
  | .lsla => [0x48]
  | .asla => [0x48]
  | .lsrd => [0x49]
  | .call t => callBytes t
  | .negb => [0x50]
  | .comb => [0x51]
  | .incb => [0x52]
  | .decb => [0x53]
  | .lsrb => [0x54]
  | .rolb => [0x55]
  | .rorb => [0x56]
  | .asrb => [0x57]
  | .lslb => [0x58]
  | .aslb => [0x58]
  | .lsld => [0x59]
  | .asld => [0x59]
  | .staa m => memOperandBytes 0x5A 0x6A 0x7A m
  | .stab m => memOperandBytes 0x5B 0x6B 0x7B m
  | .std m => memOperandBytes 0x5C 0x6C 0x7C m
  | .sty m => memOperandBytes 0x5D 0x6D 0x7D m
  | .stx m => memOperandBytes 0x5E 0x6E 0x7E m
  | .sts m => memOperandBytes 0x5F 0x6F 0x7F m
  | .neg m => rmwOperandBytes 0x60 0x70 m
  | .com m => rmwOperandBytes 0x61 0x71 m
  | .inc m => rmwOperandBytes 0x62 0x72 m
  | .dec m => rmwOperandBytes 0x63 0x73 m
  | .lsr m => rmwOperandBytes 0x64 0x74 m
  | .rol m => rmwOperandBytes 0x65 0x75 m
  | .ror m => rmwOperandBytes 0x66 0x76 m
  | .asr m => rmwOperandBytes 0x67 0x77 m
  | .lsl m => rmwOperandBytes 0x68 0x78 m
  | .asl m => rmwOperandBytes 0x68 0x78 m
  | .clr m => rmwOperandBytes 0x69 0x79 m
  | .suba o => operand8Bytes 0x80 0x90 0xA0 0xB0 o
  | .cmpa o => operand8Bytes 0x81 0x91 0xA1 0xB1 o
  | .sbca o => operand8Bytes 0x82 0x92 0xA2 0xB2 o
  | .subd o => operand16Bytes 0x83 0x93 0xA3 0xB3 o
  | .anda o => operand8Bytes 0x84 0x94 0xA4 0xB4 o
  | .bita o => operand8Bytes 0x85 0x95 0xA5 0xB5 o
  | .ldaa o => operand8Bytes 0x86 0x96 0xA6 0xB6 o
  | .clra => [0x87]
  | .eora o => operand8Bytes 0x88 0x98 0xA8 0xB8 o
  | .adca o => operand8Bytes 0x89 0x99 0xA9 0xB9 o
  | .oraa o => operand8Bytes 0x8A 0x9A 0xAA 0xBA o
  | .adda o => operand8Bytes 0x8B 0x9B 0xAB 0xBB o
  | .cpd o => operand16Bytes 0x8C 0x9C 0xAC 0xBC o
  | .cpy o => operand16Bytes 0x8D 0x9D 0xAD 0xBD o
  | .cpx o => operand16Bytes 0x8E 0x9E 0xAE 0xBE o
  | .cps o => operand16Bytes 0x8F 0x9F 0xAF 0xBF o
  | .tsta => [0x97]
  | .nop => [0xA7]
  | .subb o => operand8Bytes 0xC0 0xD0 0xE0 0xF0 o
  | .cmpb o => operand8Bytes 0xC1 0xD1 0xE1 0xF1 o
  | .sbcb o => operand8Bytes 0xC2 0xD2 0xE2 0xF2 o
  | .addd o => operand16Bytes 0xC3 0xD3 0xE3 0xF3 o
  | .andb o => operand8Bytes 0xC4 0xD4 0xE4 0xF4 o
  | .bitb o => operand8Bytes 0xC5 0xD5 0xE5 0xF5 o
  | .ldab o => operand8Bytes 0xC6 0xD6 0xE6 0xF6 o
  | .clrb => [0xC7]
  | .eorb o => operand8Bytes 0xC8 0xD8 0xE8 0xF8 o
  | .adcb o => operand8Bytes 0xC9 0xD9 0xE9 0xF9 o
  | .orab o => operand8Bytes 0xCA 0xDA 0xEA 0xFA o
  | .addb o => operand8Bytes 0xCB 0xDB 0xEB 0xFB o
  | .ldd o => operand16Bytes 0xCC 0xDC 0xEC 0xFC o
  | .ldy o => operand16Bytes 0xCD 0xDD 0xED 0xFD o
  | .ldx o => operand16Bytes 0xCE 0xDE 0xEE 0xFE o
  | .lds o => operand16Bytes 0xCF 0xDF 0xEF 0xFF o
  | .tstb => [0xD7]
  | .tst m => rmwOperandBytes 0xE7 0xF7 m
  | .dbeq r off => loopBytes 0 r off
  | .dbne r off => loopBytes 1 r off
  | .tbeq r off => loopBytes 2 r off
  | .tbne r off => loopBytes 3 r off
  | .ibeq r off => loopBytes 4 r off
  | .ibne r off => loopBytes 5 r off
  | .tfr r1 r2 => transferBytes 0 r1 r2
  | .exg r1 r2 => transferBytes 1 r1 r2
  | .sex r1 r2 => transferBytes 0 (.r8 r1) (.r16 r2)
  | .tap => [0xB7, 0x02]
  | .tpa => [0xB7, 0x20]
  | .tsx => [0xB7, 0x75]
  | .tsy => [0xB7, 0x76]
  | .txs => [0xB7, 0x57]
  | .tys => [0xB7, 0x67]
  | .xgdx => [0xB7, 0xC5]
  | .xgdy => [0xB7, 0xC6]
  | .abx => [0x1A, 0xE5]
  | .aby => [0x19, 0xED]
  | .des => [0x1B, 0x9F]
  | .ins => [0x1B, 0x81]
  | .clc => [0x10, 0xFE]
  | .cli => [0x10, 0xEF]
  | .clv => [0x10, 0xFD]
  | .sec => [0x14, 0x01]
  | .sei => [0x14, 0x10]
  | .sev => [0x14, 0x02]
  | .movw src dst => movwBytes src dst
  | .movb src dst => movbBytes src dst
  | .aba => [0x18, 0x06]
  | .daa => [0x18, 0x07]
  | .tab => [0x18, 0x0E]
  | .tba => [0x18, 0x0F]
  | .idiv => [0x18, 0x10]
  | .fdiv => [0x18, 0x11]
  | .emuls => [0x18, 0x13]
  | .edivs => [0x18, 0x14]
  | .idivs => [0x18, 0x15]
  | .sba => [0x18, 0x16]
  | .cba => [0x18, 0x17]
  | .rev => [0x18, 0x3A]
  | .revw => [0x18, 0x3B]
  | .wav => [0x18, 0x3C]
  | .stop => [0x18, 0x3E]
  | .emacs addr => [0x18, 0x12] ++ wordBytes addr
  | .maxa f => [0x18, 0x18] ++ idxFullBytes f
  | .mina f => [0x18, 0x19] ++ idxFullBytes f
  | .emaxd f => [0x18, 0x1A] ++ idxFullBytes f
  | .emind f => [0x18, 0x1B] ++ idxFullBytes f
  | .maxm f => [0x18, 0x1C] ++ idxFullBytes f
  | .minm f => [0x18, 0x1D] ++ idxFullBytes f
  | .emaxm f => [0x18, 0x1E] ++ idxFullBytes f
  | .eminm f => [0x18, 0x1F] ++ idxFullBytes f
  | .tbl f => [0x18, 0x3D, idxShortByte f]
  | .etbl f => [0x18, 0x3F, idxShortByte f]
  | .lbra rel => [0x18, 0x20] ++ wordBytes rel
  | .lbrn rel => [0x18, 0x21] ++ wordBytes rel
  | .lbhi rel => [0x18, 0x22] ++ wordBytes rel
  | .lbls rel => [0x18, 0x23] ++ wordBytes rel
  | .lbcc rel => [0x18, 0x24] ++ wordBytes rel
  | .lbhs rel => [0x18, 0x24] ++ wordBytes rel
  | .lbcs rel => [0x18, 0x25] ++ wordBytes rel
  | .lblo rel => [0x18, 0x25] ++ wordBytes rel
  | .lbne rel => [0x18, 0x26] ++ wordBytes rel
  | .lbeq rel => [0x18, 0x27] ++ wordBytes rel
  | .lbvc rel => [0x18, 0x28] ++ wordBytes rel
  | .lbvs rel => [0x18, 0x29] ++ wordBytes rel
  | .lbpl rel => [0x18, 0x2A] ++ wordBytes rel
  | .lbmi rel => [0x18, 0x2B] ++ wordBytes rel
  | .lbge rel => [0x18, 0x2C] ++ wordBytes rel
  | .lblt rel => [0x18, 0x2D] ++ wordBytes rel
  | .lbgt rel => [0x18, 0x2E] ++ wordBytes rel
  | .lble rel => [0x18, 0x2F] ++ wordBytes rel
  | .trap tn => [0x18, tn]

/-- How many bytes an instruction has (R110). -/
def Instr.length (i : Instr) : Nat := (encode i).length

/-- The instruction a decoder reads from the bytes of `i`: a second name (R152) reads back as the instruction whose
bytes it shares, every other instruction as itself. -/
def Instr.canonical (i : Instr) : Instr :=
  match i with
  | .bhs rel => .bcc rel
  | .blo rel => .bcs rel
  | .lbhs rel => .lbcc rel
  | .lblo rel => .lbcs rel
  | .asl m => .lsl m
  | .asla => .lsla
  | .aslb => .lslb
  | .asld => .lsld
  | .sex r1 r2 => .tfr (.r8 r1) (.r16 r2)
  | .tap => .tfr (.r8 .a) (.r8 .ccr)
  | .tpa => .tfr (.r8 .ccr) (.r8 .a)
  | .tsx => .tfr (.r16 .sp) (.r16 .x)
  | .tsy => .tfr (.r16 .sp) (.r16 .y)
  | .txs => .tfr (.r16 .x) (.r16 .sp)
  | .tys => .tfr (.r16 .y) (.r16 .sp)
  | .xgdx => .exg (.r16 .d) (.r16 .x)
  | .xgdy => .exg (.r16 .d) (.r16 .y)
  | .abx => .leax (.short (.acc .x .b))
  | .aby => .leay (.short (.acc .y .b))
  | .des => .leas (.short (.const5 .sp (-1)))
  | .ins => .leas (.short (.const5 .sp 1))
  | .clc => .andcc 0xFE
  | .cli => .andcc 0xEF
  | .clv => .andcc 0xFD
  | .sec => .orcc 0x01
  | .sei => .orcc 0x10
  | .sev => .orcc 0x02
  | i => i

/-! ## The host's question -/

/-- The six bytes of an instruction given as a number: the first byte is the least significant one, and the bits from
`nbits` on are zero. -/
def tableBytes (nbits w : Nat) : List Byte :=
  let v := w % 2 ^ nbits
  [BitVec.ofNat 8 v, BitVec.ofNat 8 (v / 2 ^ 8), BitVec.ofNat 8 (v / 2 ^ 16), BitVec.ofNat 8 (v / 2 ^ 24),
    BitVec.ofNat 8 (v / 2 ^ 32), BitVec.ofNat 8 (v / 2 ^ 40)]

/-- The instruction the decoder reads from the bits `w` of an opcode-table row. -/
def decodeTableWord (nbits w : Nat) : Option Instr :=
  match decode (tableBytes nbits w) with
  | .ok i _ => some i
  | .bad _ => none

end Sys2Proof
end

