-- ==== Sys2Proof/Machine/Memory.lean ====
section
/-!
DEFINITION. The 65,536 bytes of spec/20_memory.md R80 as plain data: a list of (address, byte) cells in one canonical
form, so that equal memories are equal lists. An address that is not listed reads as `Memory.blank`.
-/

namespace Sys2Proof.Machine

/-- Memory: the listed cells; every other address holds `Memory.blank`. -/
abbrev Memory := List Host.Cell

/-- What an address that nothing has written reads as (70_reset_and_hazards.md R611 leaves it open; DESIGN CHOICE,
unsafe: log entry 2). -/
def Memory.blank : Byte := 0

/-- The canonical form: addresses strictly rising and inside the 64-Kbyte space, no cell equal to an unlisted one. -/
def Memory.wf : Memory → Bool
  | [] => true
  | [c] => decide (c.1 < 65536) && decide (c.2 ≠ Memory.blank)
  | c :: d :: rest =>
    decide (c.1 < d.1) && decide (c.2 ≠ Memory.blank) && Memory.wf (d :: rest)

/-- The byte at address `a`. -/
def Memory.read : Memory → Nat → Byte
  | [], _ => Memory.blank
  | c :: rest, a => if c.1 = a then c.2 else if a < c.1 then Memory.blank else Memory.read rest a

/-- Put `v` in front of `m` as the cell of address `a`, or nothing where `v` is what an unlisted address reads as. -/
def Memory.cons (a : Nat) (v : Byte) (m : Memory) : Memory :=
  if v = Memory.blank then m else (a, v) :: m

/-- Write byte `v` at address `a`, keeping the canonical form. -/
def Memory.write : Memory → Nat → Byte → Memory
  | [], a, v => Memory.cons a v []
  | c :: rest, a, v =>
    if c.1 = a then Memory.cons a v rest
    else if a < c.1 then Memory.cons a v (c :: rest)
    else c :: Memory.write rest a v

/-- The 16-bit value at `a` and the next address, the high byte first (R82); $FFFF wraps to $0000 (R86). -/
def Memory.readWord (m : Memory) (a : Word) : Word :=
  Memory.read m a.toNat ++ Memory.read m (a + 1).toNat

end Sys2Proof.Machine
end

