-- ==== Sys2Proof/Config.lean ====
section
/-!
DEFINITION. What an implementation fixes (the parameters of spec/00_scope.md R5, as plain data that State carries in its
field `cfg` and no step changes) and the free values (opaque constants without a body: nothing can prove what they are).
-/

namespace Sys2Proof

/-- The family member (00_scope.md R5): it decides the C flag of TBL and ETBL (R430, R431) and the PC-based moves (R131). -/
inductive Variant where
  | hcs12
  | m68hc12
  deriving DecidableEq, Repr

/-- What answers an access to an address (20_memory.md R90, R91, the parameter `MemMap`). -/
inductive AddrKind where
  /-- Plain storage: a read returns the last value written. -/
  | ram
  /-- Storage that a store does not change (60_exceptions.md R578: the bytes written there are lost). -/
  | rom
  /-- A device register: an oracle answers reads (R90, U12); what a store does there is the device's business. -/
  | device
  /-- Nothing is there: what a read returns is platform data (60_exceptions.md R562 (b)). -/
  | unimplemented
  deriving DecidableEq, Repr

/-- One row of `MemMap`: the addresses `first` to `last`, both included. -/
structure Region where
  first : Word
  last : Word
  kind : AddrKind
  deriving DecidableEq, Repr

/-- The parameter `VEC` of 60_exceptions.md R565: the address of each exception vector; `src` lists the on-chip sources
of the parameter `IRQ_SOURCES`, highest priority first (R566). -/
structure Vectors where
  reset : Word
  clockMonitor : Word
  cop : Word
  trap : Word
  swi : Word
  xirq : Word
  irq : Word
  src : List Word
  deriving DecidableEq, Repr

/-- The parameters of 00_scope.md R5, fixed for a run (log entry 4). `stopSources` lists the on-chip sources that can
still make a request while the clocks are stopped (92_eei_decisions.md D16). -/
structure Config where
  variant : Variant
  ppageAddr : Option Word
  vec : Vectors
  memMap : List Region
  bdmEnabled : Bool
  stopSources : List Nat
  deriving DecidableEq, Repr

/-- The five divide instructions, to name their corner cases (44_multiply_divide_minmax_table.md R393). -/
inductive DivOp where
  | ediv
  | edivs
  | fdiv
  | idiv
  | idivs
  deriving DecidableEq, Repr

/-- A free bit: the n-th one drawn (00_scope.md R12, 92_eei_decisions.md D13; log entry 5). -/
opaque Config.freeBit : Nat → Bool

/-- A free byte: the n-th one drawn (U12, U13, U14; log entry 5). -/
opaque Config.freeByte : Nat → Byte

/-- A free choice: the n-th one drawn; it decides which value a stale instruction byte has (R101; log entry 8). -/
opaque Config.freeIndex : Nat → Nat

/-- The parameter `DIV_CORNER` (R393, U7, D14): from the dividend and the divisor of a corner case, what the quotient
register and the remainder register hold (log entry 13). -/
opaque Config.divCorner : DivOp → BitVec 32 → Word → Word × Word

end Sys2Proof
end

