-- ==== Sys2Proof/Machine/Platform.lean ====
section
/-!
DEFINITION. The default values of the parameters of spec/00_scope.md R5 (log entry 4). A state may carry others; a
statement about every state holds for them all.
-/

namespace Sys2Proof.Machine

/-- The vector addresses of the on-chip sources: $FFF0 - 2k down to $FF80 (60_exceptions.md R565; PRESUMED K8). -/
def defaultSourceVectors : List Word :=
  (List.range 57).map fun k => 0xFFF0 - BitVec.ofNat 16 (2 * k)

/-- The default of `VEC` (60_exceptions.md R565; PRESUMED K8, log entry 17). -/
def defaultVectors : Vectors where
  reset := 0xFFFE
  clockMonitor := 0xFFFC
  cop := 0xFFFA
  trap := 0xFFF8
  swi := 0xFFF6
  xirq := 0xFFF4
  irq := 0xFFF2
  src := defaultSourceVectors

/-- The defaults: HCS12 (D1), PPAGE at no address (D18), plain RAM everywhere (D4), no debug system, no on-chip source
that works while stopped (D16). -/
def defaultConfig : Config where
  variant := .hcs12
  ppageAddr := none
  vec := defaultVectors
  memMap := []
  bdmEnabled := false
  stopSources := []

end Sys2Proof.Machine
end

