-- ==== Sys2Proof/Machine/State.lean ====
section
/-!
DEFINITION. The state of the machine, as plain data, the reasons a step can stop, and the state right after reset
(spec/10_state.md). INVENTORY.md lists every field with the rule that names it.
-/

namespace Sys2Proof.Machine

/-- The four run states (10_state.md R39, 47_system.md R545). -/
inductive RunState where
  | running
  | waiting
  | stopped
  | background
  deriving DecidableEq, Repr

/-- The causes of a reset (60_exceptions.md R561, R565; PRESUMED K8). -/
inductive ResetCause where
  | external
  | clockMonitor
  | cop
  deriving DecidableEq, Repr

/-- The request lines as one sampling point sees them (10_state.md R40; 60_exceptions.md R561, R574). `sources` holds
the numbers k of the on-chip sources that make a request (R565, `VEC.src[k]`). `cutBy` is a reset request that arrives
after this point and before the next one, in the middle of what the CPU then does (70_reset_and_hazards.md R611). -/
structure Requests where
  pinReset : Bool
  clockMonitor : Bool
  cop : Bool
  xirq : Bool
  irq : Bool
  sources : List Nat
  cutBy : Option ResetCause
  deriving DecidableEq, Repr

/-- The two rule evaluations that can take more than one step (log entry 9). -/
inductive Progress where
  | rev
  | revw
  deriving DecidableEq, Repr

/-- The state. `a`, `b`, `x`, `y`, `sp`, `pc`, `ccr`: the registers of 10_state.md R20 (D is `State.d`, R22). `ppage`:
R37. `mem`: 20_memory.md R80. `runState`: R39. `requests`: what each coming sampling point will see, the next one first;
past the end nothing is requested (R40, R574; log entry 7). `queue`: the program words read ahead, each byte with its
address (R41, 20_memory.md R100; log entry 37). `stale`: for each byte stored since the last change of flow, its address
and the value it had (R41, 20_memory.md R101; log entry 8). The model's own: `progress`, a REV or REVW that goes on in
the next step (log entry 9); `ruleStores`, the addresses that a REV or REVW in progress has stored to, newest first, which
a reset leaves with any value (70_reset_and_hazards.md R611, U19; log entry 14); `draws`, how many free values were drawn
(log entry 5); `cfg`, the parameters, which no step changes (log entry 4). -/
structure State where
  a : Byte
  b : Byte
  x : Word
  y : Word
  sp : Word
  pc : Word
  ccr : Byte
  ppage : Byte
  mem : Memory
  runState : RunState
  requests : List Requests
  queue : List Host.Cell
  stale : List Host.Cell
  progress : Option Progress
  ruleStores : List Word
  draws : Nat
  cfg : Config
  deriving DecidableEq, Repr

/-- Why the machine stops without a next state. -/
inductive Fault where
  /-- Raised by `step` in the run state Background when no reset is requested: the spec makes Background a terminal state
  of the model (47_system.md R548, 92_eei_decisions.md D15). Safe: a debug host could let the machine go on. -/
  | background
  deriving DecidableEq, Repr

/-- Why the model gives no meaning. -/
inductive Refusal where
  /-- An instruction without a meaning yet. Safe. -/
  | notModelled (mnemonic : String)
  /-- Raised by `step`: the bytes at PC are a reserved encoding (93_implementation_defined.md U4, U5, U6). Safe. -/
  | reserved (e : DecodeError)
  /-- Raised by LEAS, LEAX and LEAY that post-modify their own destination (93_implementation_defined.md U16, D28). Safe. -/
  | leaPostOwnBase
  /-- Raised by WAV and wavr with B = 0 (93_implementation_defined.md U17, D21). Safe. -/
  | wavCountZero
  /-- Raised by MOVB and MOVW with PC as index base on the M68HC12 (30_encoding.md R131, D10). Safe. -/
  | movePcBase
  deriving DecidableEq, Repr

/-- The machine right after reset (10_state.md R42, 70_reset_and_hazards.md R611): S, X and I are set, PC is the word at
the reset vector, the CPU runs, nothing is requested and the instruction queue is empty (the first step fills it from
the reset target). The spec states no value for A, B, X, Y, SP, PPAGE and the flags H, N, Z, V, C: DESIGN CHOICE zero, unsafe (log entry 1). -/
def State.reset : State where
  a := 0
  b := 0
  x := 0
  y := 0
  sp := 0
  pc := Memory.readWord [] defaultConfig.vec.reset
  ccr := 0xD0
  ppage := 0
  mem := []
  runState := .running
  requests := []
  queue := []
  stale := []
  progress := none
  ruleStores := []
  draws := 0
  cfg := defaultConfig

end Sys2Proof.Machine
end

