-- ==== Sys2Proof/Machine/Flags.lean ====
section
/-!
DEFINITION. The condition code register and every flag computation (spec/10_state.md R26 to R53, the shifts of
spec/43_logic_bit_shift.md R350, the decimal adjust of spec/42_arithmetic.md R273). An operation on data takes the CCR
and answers its result with the new CCR; a bit its rule does not name keeps its value. The formulas are the spec's own
(PRESUMED K2, log entry 15).
-/

namespace Sys2Proof.Machine

/-- The eight bits of CCR (10_state.md R26); `xm` is the X bit, written so to tell it from register X (R33). -/
inductive Flag where
  | c
  | v
  | z
  | n
  | i
  | h
  | xm
  | s
  deriving DecidableEq, Repr

/-- The place of a flag in CCR (R26). -/
def flagBit : Flag → Nat
  | .c => 0
  | .v => 1
  | .z => 2
  | .n => 3
  | .i => 4
  | .h => 5
  | .xm => 6
  | .s => 7

/-- The value of a flag. -/
def getFlag (ccr : Byte) (f : Flag) : Bool := ccr.getLsbD (flagBit f)

/-- CCR with one flag written and the other seven kept. -/
def setFlag (ccr : Byte) (f : Flag) (v : Bool) : Byte :=
  if v then ccr ||| BitVec.twoPow 8 (flagBit f) else ccr &&& ~~~(BitVec.twoPow 8 (flagBit f))

/-- A flag as a number, the `cin` and `bin` of R47 and R49. -/
def bitOf (v : Bool) : Nat := if v then 1 else 0

/-- `WriteCCR` (R35): every bit takes the datum's bit, but X becomes its old value AND the datum's bit 6. -/
def writeCcr (ccr v : Byte) : Byte := (v &&& 0xBF) ||| ((v &&& ccr) &&& 0x40)

/-- Set or clear N, Z, V and C together. -/
def setNZVC (ccr : Byte) (n z v c : Bool) : Byte :=
  setFlag (setFlag (setFlag (setFlag ccr .n n) .z z) .v v) .c c

/-- Set or clear N, Z and V together. -/
def setNZV (ccr : Byte) (n z v : Bool) : Byte := setFlag (setFlag (setFlag ccr .n n) .z z) .v v

/-- `LogicFlags8` (R46). -/
def logicFlags8 (ccr r : Byte) : Byte := setNZV ccr r.msb (r == 0) false

/-- `LogicFlags16` (R46). -/
def logicFlags16 (ccr : Byte) (r : Word) : Byte := setNZV ccr r.msb (r == 0) false

/-- `Add8` (R47). -/
def add8 (ccr a m : Byte) (cin : Bool) : Byte × Byte :=
  let sum := a.toNat + m.toNat + bitOf cin
  let r := BitVec.ofNat 8 sum
  let half := decide (16 ≤ a.toNat % 16 + m.toNat % 16 + bitOf cin)
  (r, setNZVC (setFlag ccr .h half) r.msb (r == 0) (a.msb == m.msb && r.msb != a.msb) (decide (256 ≤ sum)))

/-- `Add16` (R48). -/
def add16 (ccr : Byte) (a m : Word) : Word × Byte :=
  let sum := a.toNat + m.toNat
  let r := BitVec.ofNat 16 sum
  (r, setNZVC ccr r.msb (r == 0) (a.msb == m.msb && r.msb != a.msb) (decide (65536 ≤ sum)))

/-- `Sub8` (R49); the borrow is a difference below zero. -/
def sub8 (ccr a m : Byte) (bin : Bool) : Byte × Byte :=
  let dif := (a.toNat : Int) - (m.toNat : Int) - (bitOf bin : Int)
  let r := BitVec.ofInt 8 dif
  (r, setNZVC ccr r.msb (r == 0) (a.msb != m.msb && r.msb != a.msb) (decide (dif < 0)))

/-- `Sub16` (R50). -/
def sub16 (ccr : Byte) (a m : Word) : Word × Byte :=
  let dif := (a.toNat : Int) - (m.toNat : Int)
  let r := BitVec.ofInt 16 dif
  (r, setNZVC ccr r.msb (r == 0) (a.msb != m.msb && r.msb != a.msb) (decide (dif < 0)))

/-- AND with `LogicFlags8` (43_logic_bit_shift.md R320). -/
def and8 (ccr a m : Byte) : Byte × Byte := (a &&& m, logicFlags8 ccr (a &&& m))

/-- OR with `LogicFlags8` (43_logic_bit_shift.md R322). -/
def or8 (ccr a m : Byte) : Byte × Byte := (a ||| m, logicFlags8 ccr (a ||| m))

/-- Exclusive OR with `LogicFlags8` (43_logic_bit_shift.md R324). -/
def eor8 (ccr a m : Byte) : Byte × Byte := (a ^^^ m, logicFlags8 ccr (a ^^^ m))

/-- Increment with `IncFlags8` (R52, 42_arithmetic.md R274). -/
def inc8 (ccr m : Byte) : Byte × Byte :=
  (m + 1, setNZV ccr (m + 1).msb (m + 1 == 0) (m == 0x7F))

/-- Decrement with `DecFlags8` (R52, 42_arithmetic.md R279). -/
def dec8 (ccr m : Byte) : Byte × Byte :=
  (m - 1, setNZV ccr (m - 1).msb (m - 1 == 0) (m == 0x80))

/-- Negate with `NegFlags8` (R53, 42_arithmetic.md R284). -/
def neg8 (ccr m : Byte) : Byte × Byte :=
  (0 - m, setNZVC ccr (0 - m).msb (0 - m == 0) (0 - m == 0x80) (0 - m != 0))

/-- Complement with `ComFlags8` (R53, 43_logic_bit_shift.md R328). -/
def com8 (ccr m : Byte) : Byte × Byte :=
  (~~~m, setNZVC ccr (~~~m).msb (~~~m == 0) false true)

/-- `TstFlags8` (R53). -/
def tstFlags8 (ccr m : Byte) : Byte := setNZVC ccr m.msb (m == 0) false false

/-- `ClrFlags` (R53). -/
def clrFlags (ccr : Byte) : Byte := setNZVC ccr false true false false

/-- `ShiftFlags8` (R51): V is the new N XOR the new C. -/
def shiftFlags8 (ccr r : Byte) (cout : Bool) : Byte :=
  setNZVC ccr r.msb (r == 0) (Bool.xor r.msb cout) cout

/-- `ShiftFlags16` (R51). -/
def shiftFlags16 (ccr : Byte) (r : Word) (cout : Bool) : Byte :=
  setNZVC ccr r.msb (r == 0) (Bool.xor r.msb cout) cout

/-- ASL and LSL (43_logic_bit_shift.md R350). -/
def lsl8 (ccr m : Byte) : Byte × Byte :=
  let r : Byte := m.extractLsb' 0 7 ++ 0#1
  (r, shiftFlags8 ccr r m.msb)

/-- ASR: bit 7 is kept (43_logic_bit_shift.md R350). -/
def asr8 (ccr m : Byte) : Byte × Byte :=
  let r : Byte := m.extractLsb' 7 1 ++ m.extractLsb' 1 7
  (r, shiftFlags8 ccr r (m.getLsbD 0))

/-- LSR (43_logic_bit_shift.md R350). -/
def lsr8 (ccr m : Byte) : Byte × Byte :=
  let r : Byte := 0#1 ++ m.extractLsb' 1 7
  (r, shiftFlags8 ccr r (m.getLsbD 0))

/-- ROL, through the old C (43_logic_bit_shift.md R350). -/
def rol8 (ccr m : Byte) : Byte × Byte :=
  let r : Byte := m.extractLsb' 0 7 ++ BitVec.ofBool (getFlag ccr .c)
  (r, shiftFlags8 ccr r m.msb)

/-- ROR, through the old C (43_logic_bit_shift.md R350). -/
def ror8 (ccr m : Byte) : Byte × Byte :=
  let r : Byte := BitVec.ofBool (getFlag ccr .c) ++ m.extractLsb' 1 7
  (r, shiftFlags8 ccr r (m.getLsbD 0))

/-- ASLD and LSLD (43_logic_bit_shift.md R350, R354). -/
def lsl16 (ccr : Byte) (m : Word) : Word × Byte :=
  let r : Word := m.extractLsb' 0 15 ++ 0#1
  (r, shiftFlags16 ccr r m.msb)

/-- LSRD (43_logic_bit_shift.md R350, R361). -/
def lsr16 (ccr : Byte) (m : Word) : Word × Byte :=
  let r : Word := 0#1 ++ m.extractLsb' 1 15
  (r, shiftFlags16 ccr r (m.getLsbD 0))

/-- The correction DAA adds and its carry out (42_arithmetic.md R273; PRESUMED K12, log entry 19). -/
def daaCorrection (ccr a : Byte) : Nat × Bool :=
  let low := if getFlag ccr .h || decide (9 < a.toNat % 16) then 0x06 else 0
  let carry := getFlag ccr .c || decide (0x99 < a.toNat)
  (low + (if carry then 0x60 else 0), carry)

/-- DAA (42_arithmetic.md R273): the adjusted value and the CCR, V given by `v` (undefined, U8). -/
def daa8 (ccr a : Byte) (v : Bool) : Byte × Byte :=
  let p := daaCorrection ccr a
  let r := BitVec.ofNat 8 (a.toNat + p.1)
  (r, setNZVC ccr r.msb (r == 0) v p.2)

/-- The condition of each branch, by its test of CCR (45_branch_jump_call.md R440). -/
inductive Cond where
  | always
  | never
  | hi
  | ls
  | cc
  | cs
  | ne
  | eq
  | vc
  | vs
  | pl
  | mi
  | ge
  | lt
  | gt
  | le
  deriving DecidableEq, Repr

/-- Does the condition hold? (R440) -/
def condHolds (ccr : Byte) : Cond → Bool
  | .always => true
  | .never => false
  | .hi => !(getFlag ccr .c || getFlag ccr .z)
  | .ls => getFlag ccr .c || getFlag ccr .z
  | .cc => !getFlag ccr .c
  | .cs => getFlag ccr .c
  | .ne => !getFlag ccr .z
  | .eq => getFlag ccr .z
  | .vc => !getFlag ccr .v
  | .vs => getFlag ccr .v
  | .pl => !getFlag ccr .n
  | .mi => getFlag ccr .n
  | .ge => !(Bool.xor (getFlag ccr .n) (getFlag ccr .v))
  | .lt => Bool.xor (getFlag ccr .n) (getFlag ccr .v)
  | .gt => !(getFlag ccr .z || Bool.xor (getFlag ccr .n) (getFlag ccr .v))
  | .le => getFlag ccr .z || Bool.xor (getFlag ccr .n) (getFlag ccr .v)

end Sys2Proof.Machine
end

