-- ==== Sys2Proof/Machine/Ops.lean ====
section
/-!
DEFINITION. The named operations over registers and memory that the meanings share: D (spec/10_state.md R22), memory
access (spec/00_scope.md R9, spec/20_memory.md), the stack (00_scope.md R10), free values (R12), requests
(spec/60_exceptions.md R566, R574), taking an exception (R570) and the return from one (spec/47_system.md R542).
-/

namespace Sys2Proof.Machine

/-- What a meaning and a step answer. -/
abbrev Result := Host.Outcome State Fault Refusal

/-! ## Registers -/

/-- D is A:B (10_state.md R22). -/
def State.d (s : State) : Word := s.a ++ s.b

/-- A write of D writes A and B (10_state.md R22). -/
def State.setD (s : State) (v : Word) : State :=
  { s with a := v.extractLsb' 8 8, b := v.extractLsb' 0 8 }

/-- A write of A with the CCR that goes with it. -/
def State.setA (s : State) (p : Byte × Byte) : State := { s with a := p.1, ccr := p.2 }

/-- A write of B with the CCR that goes with it. -/
def State.setB (s : State) (p : Byte × Byte) : State := { s with b := p.1, ccr := p.2 }

/-- A write of D with the CCR that goes with it. -/
def State.setDFlags (s : State) (p : Word × Byte) : State := { s.setD p.1 with ccr := p.2 }

/-- A write of CCR alone. -/
def State.setCcr (s : State) (v : Byte) : State := { s with ccr := v }

/-- `PC <- PCnext`, done first: while an instruction runs, `pc` is the address after its last byte (10_state.md R25,
00_scope.md R11), which is also the PC an index base and a relative target see (30_encoding.md R116, R131). -/
def State.advance (s : State) (i : Instr) : State := { s with pc := s.pc + BitVec.ofNat 16 i.length }

/-- The queue is given up, to be refilled at the new address from memory as it is (20_memory.md R101, R102): no byte
stored so far is stale any more. A change of flow that also stacks does this first, so that what it stacks itself counts
as a later store (log entry 8). -/
def State.refill (s : State) : State := { s with queue := [], stale := [] }

/-- Go on at `target`. -/
def State.goto (s : State) (target : Word) : State := { s with pc := target }

/-- A taken change of flow that stacks nothing: PC is the target and the queue is refilled (20_memory.md R102). -/
def State.jump (s : State) (target : Word) : State := s.refill.goto target

/-! ## Free values -/

/-- Draw a free byte (00_scope.md R12, U12, U13, U14; log entry 5). -/
def State.drawByte (s : State) : Byte × State := (Config.freeByte s.draws, { s with draws := s.draws + 1 })

/-- Draw a fresh free bit for one flag that the spec leaves undefined (U1, D13; log entry 5). -/
def State.drawFlag (s : State) (f : Flag) : State :=
  { s with ccr := setFlag s.ccr f (Config.freeBit s.draws), draws := s.draws + 1 }

/-- Draw several flags. -/
def State.drawFlags (s : State) (fs : List Flag) : State := fs.foldl State.drawFlag s

/-! ## Memory -/

/-- Is address `a` in the region? -/
def regionHas (r : Region) (a : Word) : Bool := decide (r.first ≤ a) && decide (a ≤ r.last)

/-- What answers at address `a`: the first region that has it; outside all of them plain RAM (D4). -/
def State.kindAt (s : State) (a : Word) : AddrKind :=
  match s.cfg.memMap.find? fun r => regionHas r a with
  | some r => r.kind
  | none => .ram

/-- `MemRead(a, 1)` (00_scope.md R9): PPAGE where it is mapped (D18), the stored byte in RAM and ROM, a free byte where
a device answers or nothing does (20_memory.md R90, R91; log entry 30). -/
def State.read8 (s : State) (a : Word) : Byte × State :=
  if s.cfg.ppageAddr = some a then (s.ppage, s)
  else
    match s.kindAt a with
    | .ram => (Memory.read s.mem a.toNat, s)
    | .rom => (Memory.read s.mem a.toNat, s)
    | .device => s.drawByte
    | .unimplemented => s.drawByte

/-- `MemWrite(a, 1, v)` (00_scope.md R9). A changed program byte may still stand in the queue with its old value, so the
old value is kept as stale (20_memory.md R101). A store to ROM, to a device or to nothing leaves no trace in the model
(60_exceptions.md R578; log entry 30). -/
def State.write8 (s : State) (a : Word) (v : Byte) : State :=
  if s.cfg.ppageAddr = some a then { s with ppage := v, stale := (a.toNat, s.ppage) :: s.stale }
  else
    match s.kindAt a with
    | .ram =>
      { s with mem := Memory.write s.mem a.toNat v, stale := (a.toNat, Memory.read s.mem a.toNat) :: s.stale }
    | .rom => s
    | .device => s
    | .unimplemented => s

/-- `MemRead(a, 2)`: the high byte at `a` is read first (20_memory.md R82, D3), the low byte at `a` + 1 (R86). -/
def State.read16 (s : State) (a : Word) : Word × State :=
  let hi := s.read8 a
  let lo := hi.2.read8 (a + 1)
  (hi.1 ++ lo.1, lo.2)

/-- `MemWrite(a, 2, v)`: the high byte at `a` is written first (20_memory.md R82, D3). -/
def State.write16 (s : State) (a : Word) (v : Word) : State :=
  (s.write8 a (v.extractLsb' 8 8)).write8 (a + 1) (v.extractLsb' 0 8)

/-! ## The stack, 00_scope.md R10 -/

/-- `Push8`. -/
def State.push8 (s : State) (v : Byte) : State := { s with sp := s.sp - 1 }.write8 (s.sp - 1) v

/-- `Push16`. -/
def State.push16 (s : State) (v : Word) : State := { s with sp := s.sp - 2 }.write16 (s.sp - 2) v

/-- `Pull8`. -/
def State.pull8 (s : State) : Byte × State :=
  let p := s.read8 s.sp
  (p.1, { p.2 with sp := s.sp + 1 })

/-- `Pull16`. -/
def State.pull16 (s : State) : Word × State :=
  let p := s.read16 s.sp
  (p.1, { p.2 with sp := s.sp + 2 })

/-! ## Taking an exception and returning from one -/

/-- `StackFrame(rtn)` (47_system.md R544): return address, Y, X, the pair B:A and the CCR before any mask is set. -/
def State.stackFrame (s : State) (rtn : Word) : State :=
  let frame := ((s.push16 rtn).push16 s.y).push16 s.x
  (frame.push16 (s.b ++ s.a)).push8 s.ccr

/-- The end of every exception entry (60_exceptions.md R570): I is set, for XIRQ also X, PC is loaded from the vector,
and the CPU runs. The vector is read after the pushes, the order that R570 says it follows (log entry 38). -/
def State.vectorTo (s : State) (vector : Word) (setX : Bool) : State :=
  let masked := setFlag (if setX then setFlag s.ccr .xm true else s.ccr) .i true
  let p := { s with ccr := masked, runState := .running, progress := none, ruleStores := [] }.read16 vector
  p.2.goto p.1

/-- The exception sequence (60_exceptions.md R570): the frame is built, unless WAI or STOP has already built it, and PC
is loaded from the vector. -/
def State.exceptionSequence (s : State) (rtn vector : Word) (setX : Bool) : State :=
  match s.runState with
  | .running => (s.stackFrame rtn).vectorTo vector setX
  | .background => (s.stackFrame rtn).vectorTo vector setX
  | .waiting => s.vectorTo vector setX
  | .stopped => s.vectorTo vector setX

/-- Taking an exception: the queue is given up (20_memory.md R102) and the sequence of 60_exceptions.md R570 runs. -/
def State.takeException (s : State) (rtn vector : Word) (setX : Bool) : State :=
  s.refill.exceptionSequence rtn vector setX

/-- The return from an exception (47_system.md R542): CCR under `WriteCCR`, B, A, X, Y and PC from the frame. -/
def State.returnFromException (s : State) : State :=
  let c := s.pull8
  let b := { c.2 with ccr := writeCcr s.ccr c.1 }.pull8
  let a := b.2.pull8
  let x := a.2.pull16
  let y := x.2.pull16
  let p := y.2.pull16
  { p.2 with b := b.1, a := a.1, x := x.1, y := y.1 }.jump p.1

/-- The reset sequence with vector `v` (70_reset_and_hazards.md R611): S, X and I are set, nothing is stacked, PC is the
word at `v`, the CPU runs. The spec leaves every other register and flag unspecified (U9): each is drawn (log entry
14). Memory keeps its contents. -/
def State.resetSequence (s : State) (v : Word) : State :=
  let a := s.drawByte
  let b := a.2.drawByte
  let xh := b.2.drawByte
  let xl := xh.2.drawByte
  let yh := xl.2.drawByte
  let yl := yh.2.drawByte
  let sph := yl.2.drawByte
  let spl := sph.2.drawByte
  let pp := spl.2.drawByte
  let regs : State :=
    { pp.2 with
      a := a.1, b := b.1, x := xh.1 ++ xl.1, y := yh.1 ++ yl.1, sp := sph.1 ++ spl.1, ppage := pp.1,
      ccr := 0xD0, runState := .running, progress := none, ruleStores := [] }
  let p := (regs.drawFlags [.h, .n, .z, .v, .c]).read16 v
  p.2.jump p.1

/-! ## Requests -/

/-- A sampling point at which nothing is requested (10_state.md R42). -/
def noRequests : Requests where
  pinReset := false
  clockMonitor := false
  cop := false
  xirq := false
  irq := false
  sources := []
  cutBy := none

/-- Look at the request lines once (60_exceptions.md R574; log entry 7). -/
def State.sample (s : State) : Requests × State :=
  match s.requests with
  | [] => (noRequests, s)
  | r :: rest => (r, { s with requests := rest })

/-- What a sampling point can take. -/
inductive Event where
  /-- The reset sequence with this vector (R611). -/
  | reset (vector : Word)
  /-- An interrupt with this vector; `setX` for XIRQ (R570). -/
  | interrupt (vector : Word) (setX : Bool)
  /-- An XIRQ request while Stopped with X set: go on after the STOP (R580; PRESUMED K20). -/
  | resume
  deriving DecidableEq, Repr

/-- The vector of the first source, in the order of priority, that makes a request and may be seen (60_exceptions.md
R566): `k` numbers the vectors of the list. -/
def firstSource (requested : Nat → Bool) : List Word → Nat → Option Word
  | [], _ => none
  | v :: rest, k => if requested k then some v else firstSource requested rest (k + 1)

/-- The maskable request of highest priority (60_exceptions.md R566, R575): IRQ, then the on-chip sources. While Stopped
only the sources that need no clock are seen (R580, D16). -/
def State.maskableEvent (s : State) (r : Requests) : Option Event :=
  let seen := fun k => r.sources.contains k && (s.runState != .stopped || s.cfg.stopSources.contains k)
  if getFlag s.ccr .i then none
  else if r.irq then some (.interrupt s.cfg.vec.irq false)
  else (firstSource seen s.cfg.vec.src 0).map fun v => .interrupt v false

/-- The request a sampling point takes, if any (60_exceptions.md R566, R580): the resets, then XIRQ if X is clear, then a
maskable request if I is clear, then the resumption of R580. -/
def State.eventOf (s : State) (r : Requests) : Option Event :=
  if r.pinReset then some (.reset s.cfg.vec.reset)
  else if r.clockMonitor then some (.reset s.cfg.vec.clockMonitor)
  else if r.cop then some (.reset s.cfg.vec.cop)
  else if s.runState = .background then none
  else if r.xirq && !getFlag s.ccr .xm then some (.interrupt s.cfg.vec.xirq true)
  else
    match s.maskableEvent r with
    | some e => some e
    | none => if r.xirq && decide (s.runState = .stopped) then some .resume else none

/-- Leave Stopped without an exception (60_exceptions.md R580): SP goes back over the frame and no other register
changes; PC has been the address after the STOP since the STOP ran (PRESUMED K20, log entry 26). -/
def State.resumeAfterStop (s : State) : State := { s with sp := s.sp + 9, runState := .running }

/-! ## A reset in the middle of the work -/

/-- The vector of a reset (60_exceptions.md R565). -/
def State.resetVector (s : State) : ResetCause → Word
  | .external => s.cfg.vec.reset
  | .clockMonitor => s.cfg.vec.clockMonitor
  | .cop => s.cfg.vec.cop

/-- The state with nothing recorded as stored and no later request, so that running it on shows in `stale` every byte that
the work stores. -/
def State.forgetStores (s : State) : State := { s with requests := [], stale := [] }

/-- Each of the bytes gets any value (70_reset_and_hazards.md R611, U19). -/
def State.drawBytes (s : State) : List Word → State
  | [] => s
  | a :: rest => (s.drawByte.2.write8 a s.drawByte.1).drawBytes rest

/-- The addresses stored to since the last change of flow, the latest one first (20_memory.md R101). -/
def State.stored (s : State) : List Word := s.stale.map fun c => BitVec.ofNat 16 c.1

/-- A reset of this cause arrives in the middle of the work that would have led from `s.forgetStores` to `t`
(70_reset_and_hazards.md R611): the work is abandoned, every byte it might have stored holds any value, those included
that a rule evaluation stored before it got to `s` (U19; log entry 14), and the reset sequence runs. -/
def State.cutOff (s : State) (c : ResetCause) (t : State) : State :=
  ({ s with draws := t.draws }.drawBytes (s.ruleStores ++ t.stored)).resetSequence (s.resetVector c)

/-- Work after a sampling point inside an instruction, unless a reset cuts it off. -/
def State.unlessCut (s : State) (r : Requests) (work : State → State) : State :=
  match r.cutBy with
  | none => work s
  | some c => s.cutOff c (work s.forgetStores)

/-- Take an event; the return address of an interrupt is PC (60_exceptions.md R573). A reset abandons a rule evaluation in
progress: the bytes it has stored hold any value (70_reset_and_hazards.md R611, U19; log entry 14). -/
def State.takeEvent (s : State) (e : Event) : State :=
  match e with
  | .reset v => (s.drawBytes s.ruleStores).resetSequence v
  | .interrupt v setX => s.takeException s.pc v setX
  | .resume => s.resumeAfterStop

end Sys2Proof.Machine
end

