-- ==== Sys2Proof/Machine/Operands.lean ====
section
/-!
DEFINITION. Every operand form (spec/30_encoding.md R113 to R131): effective addresses with their automatic
modification, and the operands read through them (spec/40_load_store_lea.md R160). These run with `pc` already at
PCnext (`State.advance`), so PC as index base and relative targets need nothing more (R116, R131).
-/

namespace Sys2Proof.Machine

/-! ## Effective addresses -/

/-- The value of an index base; PC is PCnext (R120, R131; D10, log entry 24). -/
def State.idxBase (s : State) : IdxBase → Word
  | .x => s.x
  | .y => s.y
  | .sp => s.sp
  | .pc => s.pc

/-- The value of an auto-modified base (R122). -/
def State.autoBase (s : State) : AutoBase → Word
  | .x => s.x
  | .y => s.y
  | .sp => s.sp

/-- Write an auto-modified base (R122). -/
def State.setAutoBase (s : State) (r : AutoBase) (v : Word) : State :=
  match r with
  | .x => { s with x := v }
  | .y => { s with y := v }
  | .sp => { s with sp := v }

/-- The signed step of the automatic forms: `nnnn` 0 to 7 is +1 to +8, 8 to 15 is -8 to -1 (R122). -/
def autoStep (n : BitVec 4) : Word := if n.msb then n.signExtend 16 else n.zeroExtend 16 + 1

/-- The accumulator offset, A and B zero-extended (R123; PRESUMED K23). -/
def State.accOffset (s : State) : AccOffset → Word
  | .a => s.a.zeroExtend 16
  | .b => s.b.zeroExtend 16
  | .d => s.d

/-- The effective address of a form without extension, and the state after its automatic modification (R121 to R123). -/
def State.eaShort (s : State) (f : IdxShort) : Word × State :=
  match f with
  | .const5 r n => (s.idxBase r + n.signExtend 16, s)
  | .pre r n =>
    let v := s.autoBase r + autoStep n
    (v, s.setAutoBase r v)
  | .post r n => (s.autoBase r, s.setAutoBase r (s.autoBase r + autoStep n))
  | .acc r o => (s.idxBase r + s.accOffset o, s)

/-- The effective address of a form without indirection (R121 to R125). -/
def State.eaDirect (s : State) (f : IdxDirect) : Word × State :=
  match f with
  | .short f => s.eaShort f
  | .const9 r n => (s.idxBase r + n.signExtend 16, s)
  | .const16 r n => (s.idxBase r + n, s)

/-- The effective address of any indexed form; the indirect forms read the pointer (R126, R127). -/
def State.eaFull (s : State) (f : IdxFull) : Word × State :=
  match f with
  | .direct f => s.eaDirect f
  | .indD r => s.read16 (s.idxBase r + s.d)
  | .ind16 r n => s.read16 (s.idxBase r + n)

/-- The effective address of a memory operand: direct is page zero (R114), extended the address itself (R115). -/
def State.eaMem (s : State) (m : MemOperand) : Word × State :=
  match m with
  | .dir a => (a.zeroExtend 16, s)
  | .ext a => (a, s)
  | .idx f => s.eaFull f

/-- The effective address of a read-modify-write operand. -/
def State.eaRmw (s : State) (m : RmwOperand) : Word × State :=
  match m with
  | .ext a => (a, s)
  | .idx f => s.eaFull f

/-- The effective address of a bit operand. -/
def State.eaBit (s : State) (m : BitOperand) : Word × State :=
  match m with
  | .dir a => (a.zeroExtend 16, s)
  | .ext a => (a, s)
  | .idx f => s.eaDirect f

/-- The effective address of a move's destination. -/
def State.eaDest (s : State) (d : MoveDest) : Word × State :=
  match d with
  | .ext a => (a, s)
  | .idx f => s.eaShort f

/-! ## Operands -/

/-- `Operand8` (40_load_store_lea.md R160): the value and the state after the access. -/
def State.operand8 (s : State) (o : Operand8) : Byte × State :=
  match o with
  | .imm v => (v, s)
  | .mem m =>
    let p := s.eaMem m
    p.2.read8 p.1

/-- `Operand16` (40_load_store_lea.md R160). -/
def State.operand16 (s : State) (o : Operand16) : Word × State :=
  match o with
  | .imm v => (v, s)
  | .mem m =>
    let p := s.eaMem m
    p.2.read16 p.1

/-- The source of MOVB (41_move_transfer_stack.md R200). -/
def State.moveSource8 (s : State) (o : MoveSource8) : Byte × State :=
  match o with
  | .imm v => (v, s)
  | .ext a => s.read8 a
  | .idx f =>
    let p := s.eaShort f
    p.2.read8 p.1

/-- The source of MOVW (41_move_transfer_stack.md R201). -/
def State.moveSource16 (s : State) (o : MoveSource16) : Word × State :=
  match o with
  | .imm v => (v, s)
  | .ext a => s.read16 a
  | .idx f =>
    let p := s.eaShort f
    p.2.read16 p.1

/-! ## Registers by name -/

/-- Read an 8-bit register of the transfer postbyte (30_encoding.md R140). -/
def State.getReg8 (s : State) : Reg8 → Byte
  | .a => s.a
  | .b => s.b
  | .ccr => s.ccr

/-- Write an 8-bit register; CCR goes through `WriteCCR` (10_state.md R35). -/
def State.setReg8 (s : State) (r : Reg8) (v : Byte) : State :=
  match r with
  | .a => { s with a := v }
  | .b => { s with b := v }
  | .ccr => { s with ccr := writeCcr s.ccr v }

/-- Read a 16-bit register of the transfer postbyte (30_encoding.md R140). -/
def State.getReg16 (s : State) : Reg16 → Word
  | .d => s.d
  | .x => s.x
  | .y => s.y
  | .sp => s.sp

/-- Write a 16-bit register of the transfer postbyte. -/
def State.setReg16 (s : State) (r : Reg16) (v : Word) : State :=
  match r with
  | .d => s.setD v
  | .x => { s with x := v }
  | .y => { s with y := v }
  | .sp => { s with sp := v }

/-- Add `k` to the counter of a loop primitive; the 8-bit counters wrap modulo 256 (45_branch_jump_call.md R485). -/
def State.addCounter (s : State) (r : LoopReg) (k : Int) : State :=
  match r with
  | .a => { s with a := s.a + BitVec.ofInt 8 k }
  | .b => { s with b := s.b + BitVec.ofInt 8 k }
  | .d => s.setD (s.d + BitVec.ofInt 16 k)
  | .x => { s with x := s.x + BitVec.ofInt 16 k }
  | .y => { s with y := s.y + BitVec.ofInt 16 k }
  | .sp => { s with sp := s.sp + BitVec.ofInt 16 k }

/-- Is the counter of a loop primitive zero? (45_branch_jump_call.md R485) -/
def State.counterZero (s : State) : LoopReg → Bool
  | .a => s.a == 0
  | .b => s.b == 0
  | .d => s.d == 0
  | .x => s.x == 0
  | .y => s.y == 0
  | .sp => s.sp == 0

end Sys2Proof.Machine
end

