-- ==== Sys2Proof/Machine/Shapes.lean ====
section
/-!
DEFINITION. The shapes that many instructions share: an operand read and used, a store, a read-modify-write, a branch,
a stack move. Each takes what is particular to the instruction as an argument. A shape runs on a state whose PC is
already PCnext (`State.advance`).
-/

namespace Sys2Proof.Machine

/-! ## Operand, then operation -/

/-- Read an 8-bit operand, then use it on the state after the access (40_load_store_lea.md R160, 30_encoding.md R130). -/
def State.with8 (s : State) (o : Operand8) (f : Byte → State → State) : State :=
  let p := s.operand8 o
  f p.1 p.2

/-- Read a 16-bit operand, then use it on the state after the access. -/
def State.with16 (s : State) (o : Operand16) (f : Word → State → State) : State :=
  let p := s.operand16 o
  f p.1 p.2

/-- A ← op(CCR, A, operand) with the flags of op (42_arithmetic.md R252, 43_logic_bit_shift.md R320). -/
def State.aluA (s : State) (o : Operand8) (op : Byte → Byte → Byte → Byte × Byte) : State :=
  s.with8 o fun m t => t.setA (op t.ccr t.a m)

/-- B ← op(CCR, B, operand) with the flags of op. -/
def State.aluB (s : State) (o : Operand8) (op : Byte → Byte → Byte → Byte × Byte) : State :=
  s.with8 o fun m t => t.setB (op t.ccr t.b m)

/-- The flags of op(CCR, A, operand), the result discarded (42_arithmetic.md R264, 43_logic_bit_shift.md R326). -/
def State.testA (s : State) (o : Operand8) (op : Byte → Byte → Byte → Byte × Byte) : State :=
  s.with8 o fun m t => t.setCcr (op t.ccr t.a m).2

/-- The flags of op(CCR, B, operand), the result discarded. -/
def State.testB (s : State) (o : Operand8) (op : Byte → Byte → Byte → Byte × Byte) : State :=
  s.with8 o fun m t => t.setCcr (op t.ccr t.b m).2

/-- D ← op(CCR, D, operand) with the flags of op (42_arithmetic.md R256). -/
def State.aluD (s : State) (o : Operand16) (op : Byte → Word → Word → Word × Byte) : State :=
  s.with16 o fun m t => t.setDFlags (op t.ccr t.d m)

/-- The flags of `reg` minus the operand (42_arithmetic.md R266); the register is read after the operand access, so an
auto-modified register is compared with its new value (30_encoding.md R130; log entry 32). -/
def State.compare16 (s : State) (o : Operand16) (reg : State → Word) : State :=
  s.with16 o fun m t => t.setCcr (sub16 t.ccr (reg t) m).2

/-! ## Stores -/

/-- Store a byte and set the flags of a store (40_load_store_lea.md R168); the value is read after the address is formed
(30_encoding.md R130; PRESUMED K28, log entry 32). -/
def State.store8 (s : State) (m : MemOperand) (value : State → Byte) : State :=
  let p := s.eaMem m
  (p.2.write8 p.1 (value p.2)).setCcr (logicFlags8 s.ccr (value p.2))

/-- Store a word and set the flags of a store (40_load_store_lea.md R170, R172). -/
def State.store16 (s : State) (m : MemOperand) (value : State → Word) : State :=
  let p := s.eaMem m
  (p.2.write16 p.1 (value p.2)).setCcr (logicFlags16 s.ccr (value p.2))

/-! ## Read-modify-write and unary operations -/

/-- One read, then one write of the same byte, always (42_arithmetic.md R250, 20_memory.md R88). -/
def State.modifyAt (s : State) (ea : Word) (op : Byte → Byte → Byte × Byte) : State :=
  let m := s.read8 ea
  let r := op m.2.ccr m.1
  (m.2.write8 ea r.1).setCcr r.2

/-- A read-modify-write instruction on its operand (42_arithmetic.md R250). -/
def State.rmw (s : State) (m : RmwOperand) (op : Byte → Byte → Byte × Byte) : State :=
  let p := s.eaRmw m
  p.2.modifyAt p.1 op

/-- A ← op(CCR, A). -/
def State.unaryA (s : State) (op : Byte → Byte → Byte × Byte) : State := s.setA (op s.ccr s.a)

/-- B ← op(CCR, B). -/
def State.unaryB (s : State) (op : Byte → Byte → Byte × Byte) : State := s.setB (op s.ccr s.b)

/-- D ← op(CCR, D). -/
def State.unaryD (s : State) (op : Byte → Word → Word × Byte) : State := s.setDFlags (op s.ccr s.d)

/-- BSET and BCLR on their operand (43_logic_bit_shift.md R342, R343): `op` combines the byte with the mask. -/
def State.modifyBits (s : State) (m : BitOperand) (op : Byte → Byte) : State :=
  let p := s.eaBit m
  p.2.modifyAt p.1 fun ccr v => (op v, logicFlags8 ccr (op v))

/-! ## Branches -/

/-- Branch or fall through; `off` counts from PCnext (45_branch_jump_call.md R440, 30_encoding.md R116). -/
def State.branch (s : State) (taken : Bool) (off : Word) : State :=
  if taken then s.jump (s.pc + off) else s

/-- A short conditional branch: the offset byte is sign-extended (R440, R116). -/
def State.branchShort (s : State) (c : Cond) (rel : Byte) : State :=
  s.branch (condHolds s.ccr c) (rel.signExtend 16)

/-- A long conditional branch (R440, R116). -/
def State.branchLong (s : State) (c : Cond) (rel : Word) : State :=
  s.branch (condHolds s.ccr c) rel

/-- A branch on the bits of a memory byte (45_branch_jump_call.md R480, R481): `test` decides. -/
def State.branchBits (s : State) (m : BitOperand) (rel : Byte) (test : Byte → Bool) : State :=
  let p := s.eaBit m
  let v := p.2.read8 p.1
  v.2.branch (test v.1) (rel.signExtend 16)

/-- A loop primitive (45_branch_jump_call.md R485): the counter is changed by `k` and then tested. -/
def State.loopBranch (s : State) (r : LoopReg) (k : Int) (onZero : Bool) (off : BitVec 9) : State :=
  let t := s.addCounter r k
  t.branch (t.counterZero r == onZero) (off.signExtend 16)

end Sys2Proof.Machine
end

