-- ==== Sys2Proof/Machine/Arith.lean ====
section
/-!
DEFINITION. Addition, subtraction, compare, test, decimal adjust, increment, decrement, negate (spec/42_arithmetic.md).
One definition per instruction.
-/

namespace Sys2Proof.Machine

/-- An addition that ignores the old C. -/
def addNoCarry (ccr a m : Byte) : Byte × Byte := add8 ccr a m false

/-- An addition that adds the old C. -/
def addCarry (ccr a m : Byte) : Byte × Byte := add8 ccr a m (getFlag ccr .c)

/-- A subtraction that ignores the old C. -/
def subNoBorrow (ccr a m : Byte) : Byte × Byte := sub8 ccr a m false

/-- A subtraction that takes the old C as borrow. -/
def subBorrow (ccr a m : Byte) : Byte × Byte := sub8 ccr a m (getFlag ccr .c)

/-- ABA: A ← A + B (42_arithmetic.md R251). -/
def execAba (s : State) : Result := .next ((s.advance .aba).setA (addNoCarry s.ccr s.a s.b))

/-- ADCA: A ← A + operand + C (42_arithmetic.md R252). -/
def execAdca (o : Operand8) (s : State) : Result := .next ((s.advance (.adca o)).aluA o addCarry)

/-- ADCB: B ← B + operand + C (42_arithmetic.md R253). -/
def execAdcb (o : Operand8) (s : State) : Result := .next ((s.advance (.adcb o)).aluB o addCarry)

/-- ADDA: A ← A + operand (42_arithmetic.md R254). -/
def execAdda (o : Operand8) (s : State) : Result := .next ((s.advance (.adda o)).aluA o addNoCarry)

/-- ADDB: B ← B + operand (42_arithmetic.md R255). -/
def execAddb (o : Operand8) (s : State) : Result := .next ((s.advance (.addb o)).aluB o addNoCarry)

/-- ADDD: D ← D + operand (42_arithmetic.md R256). -/
def execAddd (o : Operand16) (s : State) : Result := .next ((s.advance (.addd o)).aluD o add16)

/-- SBA: A ← A - B (42_arithmetic.md R257). -/
def execSba (s : State) : Result := .next ((s.advance .sba).setA (subNoBorrow s.ccr s.a s.b))

/-- SBCA: A ← A - operand - C (42_arithmetic.md R258). -/
def execSbca (o : Operand8) (s : State) : Result := .next ((s.advance (.sbca o)).aluA o subBorrow)

/-- SBCB: B ← B - operand - C (42_arithmetic.md R259). -/
def execSbcb (o : Operand8) (s : State) : Result := .next ((s.advance (.sbcb o)).aluB o subBorrow)

/-- SUBA: A ← A - operand (42_arithmetic.md R260). -/
def execSuba (o : Operand8) (s : State) : Result := .next ((s.advance (.suba o)).aluA o subNoBorrow)

/-- SUBB: B ← B - operand (42_arithmetic.md R261). -/
def execSubb (o : Operand8) (s : State) : Result := .next ((s.advance (.subb o)).aluB o subNoBorrow)

/-- SUBD: D ← D - operand (42_arithmetic.md R262). -/
def execSubd (o : Operand16) (s : State) : Result := .next ((s.advance (.subd o)).aluD o sub16)

/-- CBA: the flags of A - B (42_arithmetic.md R263). -/
def execCba (s : State) : Result := .next ((s.advance .cba).setCcr (subNoBorrow s.ccr s.a s.b).2)

/-- CMPA: the flags of A - operand (42_arithmetic.md R264). -/
def execCmpa (o : Operand8) (s : State) : Result := .next ((s.advance (.cmpa o)).testA o subNoBorrow)

/-- CMPB: the flags of B - operand (42_arithmetic.md R265). -/
def execCmpb (o : Operand8) (s : State) : Result := .next ((s.advance (.cmpb o)).testB o subNoBorrow)

/-- CPD: the flags of D - operand (42_arithmetic.md R266). -/
def execCpd (o : Operand16) (s : State) : Result := .next ((s.advance (.cpd o)).compare16 o State.d)

/-- CPS: the flags of SP - operand (42_arithmetic.md R267). -/
def execCps (o : Operand16) (s : State) : Result := .next ((s.advance (.cps o)).compare16 o State.sp)

/-- CPX: the flags of X - operand (42_arithmetic.md R268). -/
def execCpx (o : Operand16) (s : State) : Result := .next ((s.advance (.cpx o)).compare16 o State.x)

/-- CPY: the flags of Y - operand (42_arithmetic.md R269). -/
def execCpy (o : Operand16) (s : State) : Result := .next ((s.advance (.cpy o)).compare16 o State.y)

/-- TST: the flags of a memory byte; memory is read and not written (42_arithmetic.md R270). -/
def execTst (m : RmwOperand) (s : State) : Result :=
  let p := (s.advance (.tst m)).eaRmw m
  let v := p.2.read8 p.1
  .next (v.2.setCcr (tstFlags8 v.2.ccr v.1))

/-- TSTA: the flags of A (42_arithmetic.md R271). -/
def execTsta (s : State) : Result := .next ((s.advance .tsta).setCcr (tstFlags8 s.ccr s.a))

/-- TSTB: the flags of B (42_arithmetic.md R272). -/
def execTstb (s : State) : Result := .next ((s.advance .tstb).setCcr (tstFlags8 s.ccr s.b))

/-- DAA: decimal adjust of A; V is drawn, U8 (42_arithmetic.md R273). -/
def execDaa (s : State) : Result :=
  let t := s.advance .daa
  .next ({ t with draws := t.draws + 1 }.setA (daa8 t.ccr t.a (Config.freeBit t.draws)))

/-- INC: M ← M + 1 (42_arithmetic.md R274). -/
def execInc (m : RmwOperand) (s : State) : Result := .next ((s.advance (.inc m)).rmw m inc8)

/-- INCA: A ← A + 1 (42_arithmetic.md R275). -/
def execInca (s : State) : Result := .next ((s.advance .inca).unaryA inc8)

/-- INCB: B ← B + 1 (42_arithmetic.md R276). -/
def execIncb (s : State) : Result := .next ((s.advance .incb).unaryB inc8)

/-- INX: X ← X + 1 with Z alone (42_arithmetic.md R277). -/
def execInx (s : State) : Result :=
  .next ({ s.advance .inx with x := s.x + 1, ccr := setFlag s.ccr .z (s.x + 1 == 0) })

/-- INY: Y ← Y + 1 with Z alone (42_arithmetic.md R278). -/
def execIny (s : State) : Result :=
  .next ({ s.advance .iny with y := s.y + 1, ccr := setFlag s.ccr .z (s.y + 1 == 0) })

/-- DEX: X ← X - 1 with Z alone (42_arithmetic.md R282). -/
def execDex (s : State) : Result :=
  .next ({ s.advance .dex with x := s.x - 1, ccr := setFlag s.ccr .z (s.x - 1 == 0) })

/-- DEY: Y ← Y - 1 with Z alone (42_arithmetic.md R283). -/
def execDey (s : State) : Result :=
  .next ({ s.advance .dey with y := s.y - 1, ccr := setFlag s.ccr .z (s.y - 1 == 0) })

/-- DEC: M ← M - 1 (42_arithmetic.md R279). -/
def execDec (m : RmwOperand) (s : State) : Result := .next ((s.advance (.dec m)).rmw m dec8)

/-- DECA: A ← A - 1 (42_arithmetic.md R280). -/
def execDeca (s : State) : Result := .next ((s.advance .deca).unaryA dec8)

/-- DECB: B ← B - 1 (42_arithmetic.md R281). -/
def execDecb (s : State) : Result := .next ((s.advance .decb).unaryB dec8)

/-- NEG: M ← 0 - M (42_arithmetic.md R284). -/
def execNeg (m : RmwOperand) (s : State) : Result := .next ((s.advance (.neg m)).rmw m neg8)

/-- NEGA: A ← 0 - A (42_arithmetic.md R285). -/
def execNega (s : State) : Result := .next ((s.advance .nega).unaryA neg8)

/-- NEGB: B ← 0 - B (42_arithmetic.md R286). -/
def execNegb (s : State) : Result := .next ((s.advance .negb).unaryB neg8)

end Sys2Proof.Machine
end

