-- ==== Sys2Proof/Machine/Branch.lean ====
section
/-!
DEFINITION. Branches, loop primitives, jumps, subroutine calls and returns (spec/45_branch_jump_call.md).
One definition per instruction.
-/

namespace Sys2Proof.Machine

/-- Stack the return address, then go to the target (R496, R497). The target is known before the push (PRESUMED K33). -/
def State.callTo (s : State) (target : Word) : State := (s.refill.push16 s.pc).goto target

/-- The 16-bit target at a pointer and the page byte after it (R499; PRESUMED K19, log entry 25). -/
def State.callPointer (s : State) (ptr : Word) : Word × Byte × State :=
  let a := s.read16 ptr
  let pg := a.2.read8 (ptr + 2)
  (a.1, pg.1, pg.2)

/-- The target and the new page of CALL, and the state after they are found (R499). -/
def State.callTarget (s : State) (t : CallTarget) : Word × Byte × State :=
  match t with
  | .ext a page => (a, page, s)
  | .idx f page => ((s.eaDirect f).1, page, (s.eaDirect f).2)
  | .indD r => s.callPointer (s.idxBase r + s.d)
  | .ind16 r n => s.callPointer (s.idxBase r + n)

/-- BRA: branch always (45_branch_jump_call.md R455). -/
def execBra (rel : Byte) (s : State) : Result := .next ((s.advance (.bra rel)).branchShort .always rel)

/-- BRN: branch never (45_branch_jump_call.md R456). -/
def execBrn (rel : Byte) (s : State) : Result := .next ((s.advance (.brn rel)).branchShort .never rel)

/-- BHI: branch if higher, unsigned (45_branch_jump_call.md R446). -/
def execBhi (rel : Byte) (s : State) : Result := .next ((s.advance (.bhi rel)).branchShort .hi rel)

/-- BLS: branch if lower or same, unsigned (45_branch_jump_call.md R450). -/
def execBls (rel : Byte) (s : State) : Result := .next ((s.advance (.bls rel)).branchShort .ls rel)

/-- BCC: branch if carry clear (45_branch_jump_call.md R441). -/
def execBcc (rel : Byte) (s : State) : Result := .next ((s.advance (.bcc rel)).branchShort .cc rel)

/-- BHS: branch if higher or same, unsigned (45_branch_jump_call.md R447). -/
def execBhs (rel : Byte) (s : State) : Result := .next ((s.advance (.bhs rel)).branchShort .cc rel)

/-- BCS: branch if carry set (45_branch_jump_call.md R442). -/
def execBcs (rel : Byte) (s : State) : Result := .next ((s.advance (.bcs rel)).branchShort .cs rel)

/-- BLO: branch if lower, unsigned (45_branch_jump_call.md R449). -/
def execBlo (rel : Byte) (s : State) : Result := .next ((s.advance (.blo rel)).branchShort .cs rel)

/-- BNE: branch if not equal (45_branch_jump_call.md R453). -/
def execBne (rel : Byte) (s : State) : Result := .next ((s.advance (.bne rel)).branchShort .ne rel)

/-- BEQ: branch if equal (45_branch_jump_call.md R443). -/
def execBeq (rel : Byte) (s : State) : Result := .next ((s.advance (.beq rel)).branchShort .eq rel)

/-- BVC: branch if overflow clear (45_branch_jump_call.md R457). -/
def execBvc (rel : Byte) (s : State) : Result := .next ((s.advance (.bvc rel)).branchShort .vc rel)

/-- BVS: branch if overflow set (45_branch_jump_call.md R458). -/
def execBvs (rel : Byte) (s : State) : Result := .next ((s.advance (.bvs rel)).branchShort .vs rel)

/-- BPL: branch if plus (45_branch_jump_call.md R454). -/
def execBpl (rel : Byte) (s : State) : Result := .next ((s.advance (.bpl rel)).branchShort .pl rel)

/-- BMI: branch if minus (45_branch_jump_call.md R452). -/
def execBmi (rel : Byte) (s : State) : Result := .next ((s.advance (.bmi rel)).branchShort .mi rel)

/-- BGE: branch if greater or equal, signed (45_branch_jump_call.md R444). -/
def execBge (rel : Byte) (s : State) : Result := .next ((s.advance (.bge rel)).branchShort .ge rel)

/-- BLT: branch if less, signed (45_branch_jump_call.md R451). -/
def execBlt (rel : Byte) (s : State) : Result := .next ((s.advance (.blt rel)).branchShort .lt rel)

/-- BGT: branch if greater, signed (45_branch_jump_call.md R445). -/
def execBgt (rel : Byte) (s : State) : Result := .next ((s.advance (.bgt rel)).branchShort .gt rel)

/-- BLE: branch if less or equal, signed (45_branch_jump_call.md R448). -/
def execBle (rel : Byte) (s : State) : Result := .next ((s.advance (.ble rel)).branchShort .le rel)

/-- LBRA: long branch always (45_branch_jump_call.md R474). -/
def execLbra (rel : Word) (s : State) : Result := .next ((s.advance (.lbra rel)).branchLong .always rel)

/-- LBRN: long branch never (45_branch_jump_call.md R475). -/
def execLbrn (rel : Word) (s : State) : Result := .next ((s.advance (.lbrn rel)).branchLong .never rel)

/-- LBHI: long branch if higher, unsigned (45_branch_jump_call.md R465). -/
def execLbhi (rel : Word) (s : State) : Result := .next ((s.advance (.lbhi rel)).branchLong .hi rel)

/-- LBLS: long branch if lower or same, unsigned (45_branch_jump_call.md R469). -/
def execLbls (rel : Word) (s : State) : Result := .next ((s.advance (.lbls rel)).branchLong .ls rel)

/-- LBCC: long branch if carry clear (45_branch_jump_call.md R460). -/
def execLbcc (rel : Word) (s : State) : Result := .next ((s.advance (.lbcc rel)).branchLong .cc rel)

/-- LBHS: long branch if higher or same, unsigned (45_branch_jump_call.md R466). -/
def execLbhs (rel : Word) (s : State) : Result := .next ((s.advance (.lbhs rel)).branchLong .cc rel)

/-- LBCS: long branch if carry set (45_branch_jump_call.md R461). -/
def execLbcs (rel : Word) (s : State) : Result := .next ((s.advance (.lbcs rel)).branchLong .cs rel)

/-- LBLO: long branch if lower, unsigned (45_branch_jump_call.md R468). -/
def execLblo (rel : Word) (s : State) : Result := .next ((s.advance (.lblo rel)).branchLong .cs rel)

/-- LBNE: long branch if not equal (45_branch_jump_call.md R472). -/
def execLbne (rel : Word) (s : State) : Result := .next ((s.advance (.lbne rel)).branchLong .ne rel)

/-- LBEQ: long branch if equal (45_branch_jump_call.md R462). -/
def execLbeq (rel : Word) (s : State) : Result := .next ((s.advance (.lbeq rel)).branchLong .eq rel)

/-- LBVC: long branch if overflow clear (45_branch_jump_call.md R476). -/
def execLbvc (rel : Word) (s : State) : Result := .next ((s.advance (.lbvc rel)).branchLong .vc rel)

/-- LBVS: long branch if overflow set (45_branch_jump_call.md R477). -/
def execLbvs (rel : Word) (s : State) : Result := .next ((s.advance (.lbvs rel)).branchLong .vs rel)

/-- LBPL: long branch if plus (45_branch_jump_call.md R473). -/
def execLbpl (rel : Word) (s : State) : Result := .next ((s.advance (.lbpl rel)).branchLong .pl rel)

/-- LBMI: long branch if minus (45_branch_jump_call.md R471). -/
def execLbmi (rel : Word) (s : State) : Result := .next ((s.advance (.lbmi rel)).branchLong .mi rel)

/-- LBGE: long branch if greater or equal, signed (45_branch_jump_call.md R463). -/
def execLbge (rel : Word) (s : State) : Result := .next ((s.advance (.lbge rel)).branchLong .ge rel)

/-- LBLT: long branch if less, signed (45_branch_jump_call.md R470). -/
def execLblt (rel : Word) (s : State) : Result := .next ((s.advance (.lblt rel)).branchLong .lt rel)

/-- LBGT: long branch if greater, signed (45_branch_jump_call.md R464). -/
def execLbgt (rel : Word) (s : State) : Result := .next ((s.advance (.lbgt rel)).branchLong .gt rel)

/-- LBLE: long branch if less or equal, signed (45_branch_jump_call.md R467). -/
def execLble (rel : Word) (s : State) : Result := .next ((s.advance (.lble rel)).branchLong .le rel)

/-- BRCLR: branch if the masked bits are clear (45_branch_jump_call.md R480). -/
def execBrclr (m : BitOperand) (mask : Byte) (rel : Byte) (s : State) : Result :=
  .next ((s.advance (.brclr m mask rel)).branchBits m rel fun v => v &&& mask == 0)

/-- BRSET: branch if the masked bits are set (45_branch_jump_call.md R481). -/
def execBrset (m : BitOperand) (mask : Byte) (rel : Byte) (s : State) : Result :=
  .next ((s.advance (.brset m mask rel)).branchBits m rel fun v => ~~~v &&& mask == 0)

/-- DBEQ: decrement the counter, branch if it is zero (45_branch_jump_call.md R486). -/
def execDbeq (r : LoopReg) (off : BitVec 9) (s : State) : Result :=
  .next ((s.advance (.dbeq r off)).loopBranch r (-1) true off)

/-- DBNE: decrement the counter, branch if it is not zero (45_branch_jump_call.md R487). -/
def execDbne (r : LoopReg) (off : BitVec 9) (s : State) : Result :=
  .next ((s.advance (.dbne r off)).loopBranch r (-1) false off)

/-- IBEQ: increment the counter, branch if it is zero (45_branch_jump_call.md R488). -/
def execIbeq (r : LoopReg) (off : BitVec 9) (s : State) : Result :=
  .next ((s.advance (.ibeq r off)).loopBranch r 1 true off)

/-- IBNE: increment the counter, branch if it is not zero (45_branch_jump_call.md R489). -/
def execIbne (r : LoopReg) (off : BitVec 9) (s : State) : Result :=
  .next ((s.advance (.ibne r off)).loopBranch r 1 false off)

/-- TBEQ: branch if the counter is zero (45_branch_jump_call.md R490). -/
def execTbeq (r : LoopReg) (off : BitVec 9) (s : State) : Result :=
  .next ((s.advance (.tbeq r off)).loopBranch r 0 true off)

/-- TBNE: branch if the counter is not zero (45_branch_jump_call.md R491). -/
def execTbne (r : LoopReg) (off : BitVec 9) (s : State) : Result :=
  .next ((s.advance (.tbne r off)).loopBranch r 0 false off)

/-- JMP: jump to the effective address (45_branch_jump_call.md R495). -/
def execJmp (m : RmwOperand) (s : State) : Result :=
  let p := (s.advance (.jmp m)).eaRmw m
  .next (p.2.jump p.1)

/-- JSR: jump to subroutine (45_branch_jump_call.md R496). -/
def execJsr (m : MemOperand) (s : State) : Result :=
  let p := (s.advance (.jsr m)).eaMem m
  .next (p.2.callTo p.1)

/-- BSR: branch to subroutine (45_branch_jump_call.md R497). -/
def execBsr (rel : Byte) (s : State) : Result :=
  let t := s.advance (.bsr rel)
  .next (t.callTo (t.pc + rel.signExtend 16))

/-- RTS: return from subroutine (45_branch_jump_call.md R498). -/
def execRts (s : State) : Result :=
  let p := (s.advance .rts).pull16
  .next (p.2.jump p.1)

/-- CALL: call a subroutine in expanded memory (45_branch_jump_call.md R499). DESIGN CHOICE (log entry 42): where PPAGE is
mapped at one of the two bytes of the return address, the page stacked is the one before that push. -/
def execCall (t : CallTarget) (s : State) : Result :=
  let p := (s.advance (.call t)).callTarget t
  let u := (p.2.2.refill.push16 p.2.2.pc).push8 p.2.2.ppage
  .next { u.goto p.1 with ppage := p.2.1 }

/-- RTC: return from CALL (45_branch_jump_call.md R500). -/
def execRtc (s : State) : Result :=
  let pg := (s.advance .rtc).pull8
  let p := { pg.2 with ppage := pg.1 }.pull16
  .next (p.2.jump p.1)

end Sys2Proof.Machine
end

