-- ==== Sys2Proof/Machine/Fuzzy.lean ====
section
/-!
DEFINITION. The fuzzy-logic instructions (spec/46_fuzzy.md). REV, REVW and WAV look at the request lines inside their loop
(60_exceptions.md R574).
One definition per instruction.
-/

namespace Sys2Proof.Machine

/-! ## MEM -/

/-- One side of the trapezoid: the distance times the slope, at most $FF; a slope of $00 is a vertical side (R521, R522;
D23, log entry 21). -/
def sideGrade (distance slope : Byte) : Byte :=
  if slope = 0 then 0xFF else BitVec.ofNat 8 (min (distance.toNat * slope.toNat) 255)

/-- The grade of membership of A in the trapezoid P1, P2, S1, S2 (R521). -/
def memGrade (a p1 p2 s1 s2 : Byte) : Byte :=
  if a < p1 ∨ p2 < a then 0
  else if sideGrade (p2 - a) s2 < sideGrade (a - p1) s1 then sideGrade (p2 - a) s2
  else sideGrade (a - p1) s1

/-! ## REV and REVW -/

/-- A consequent raised (R523, R525): the byte at `ea` becomes A, and the evaluation in progress has stored there. -/
def State.raiseOutput (s : State) (ea : Word) : State :=
  { s.write8 ea s.a with ruleStores := ea :: s.ruleStores }

/-- One element of REV's rule list that is not the end mark (R523): the separator $FE changes sides and a new rule starts
with A = $FF; an antecedent lowers A; a consequent is raised to A. -/
def State.revElement (s : State) (rx : Byte) : State :=
  if rx = 0xFE then
    { s with a := if getFlag s.ccr .v then 0xFF else s.a, ccr := setFlag s.ccr .v (!getFlag s.ccr .v) }
  else
    let ea := s.y + rx.zeroExtend 16
    let m := s.read8 ea
    if getFlag s.ccr .v then (if m.1 < s.a then m.2.raiseOutput ea else m.2)
    else { m.2 with a := if m.1 < s.a then m.1 else s.a }

/-- One element of REVW's rule list that is not the end mark (R525): as REV with 16-bit addresses; at the end of the
antecedents, with C set, A is scaled by the rule's weight. -/
def State.revwElement (s : State) (rx : Word) : State :=
  if rx = 0xFFFE then
    if getFlag s.ccr .v then { s with a := 0xFF, ccr := setFlag s.ccr .v false }
    else if getFlag s.ccr .c then
      let w := s.read8 s.y
      { w.2 with
        y := s.y + 1, a := BitVec.ofNat 8 (s.a.toNat * (w.1.toNat + 1) / 256), ccr := setFlag s.ccr .v true }
    else { s with ccr := setFlag s.ccr .v true }
  else
    let m := s.read8 rx
    if getFlag s.ccr .v then (if m.1 < s.a then m.2.raiseOutput rx else m.2)
    else { m.2 with a := if m.1 < s.a then m.1 else s.a }

/-- The answer of one turn of a rule loop. -/
inductive RuleTurn where
  /-- The end mark was read. -/
  | finished (s : State)
  /-- An element was processed. -/
  | again (s : State)
  deriving DecidableEq, Repr

/-- One turn of REV's loop (R523): read the element at X, move X on, process it. -/
def State.revTurn (s : State) : RuleTurn :=
  let e := s.read8 s.x
  let t : State := { e.2 with x := s.x + 1 }
  if e.1 = 0xFF then .finished t else .again (t.revElement e.1)

/-- One turn of REVW's loop (R525). -/
def State.revwTurn (s : State) : RuleTurn :=
  let e := s.read16 s.x
  let t : State := { e.2 with x := s.x + 2 }
  if e.1 = 0xFFFF then .finished t else .again (t.revwElement e.1)

/-- The rule loop: a turn, then the request check "^" (R524), then the next turn. PC stays at the instruction, which is
the return address of an interrupt taken here. `finish` ends the instruction; when `fuel` turns were made the instruction
goes on in the next step (`kind`; log entry 9). DESIGN CHOICE (log entry 41): the flags that 10_state.md R60 leaves
undefined are drawn by `finish` alone, so an interrupt taken inside stacks them as they were before the instruction. -/
def ruleLoop (turn : State → RuleTurn) (finish : State → State) (kind : Progress) : Nat → State → State
  | 0, s => { s with progress := some kind }
  | fuel + 1, s =>
    match turn s with
    | .finished t => finish { t with ruleStores := [] }
    | .again t =>
      match fuel with
      | 0 => { t with progress := some kind }
      | more + 1 =>
        let q := t.sample
        q.2.unlessCut q.1 fun u =>
          match u.eventOf q.1 with
          | some e => u.takeEvent e
          | none => ruleLoop turn finish kind (more + 1) u

/-- How many elements one step of REV or REVW processes (DESIGN CHOICE, log entry 9: how the work is cut into steps is the
model's own, R530). -/
def ruleQuantum : Nat := 256

/-! ## WAV -/

/-- WAV's working values (R527). -/
structure Sums where
  sop : BitVec 32
  sow : Word
  deriving DecidableEq, Repr

/-- The end of WAV (R527): Y:D is the sum of products, X the sum of weights; Z is set, H, N, V and C are undefined. -/
def State.wavFinish (s : State) (sums : Sums) (pcEnd : Word) : State :=
  let t : State :=
    { s.setD (sums.sop.extractLsb' 0 16) with
      y := sums.sop.extractLsb' 16 16, x := sums.sow, pc := pcEnd, ccr := setFlag s.ccr .z true }
  t.drawFlags [.h, .n, .v, .c]

/-- WAV interrupted (R528): the three intermediate words are stacked and the exception is taken with the address of the
byte $3C as return address. A reset stacks nothing (70_reset_and_hazards.md R611). DESIGN CHOICE (log entry 41): the flags
H, N, Z, V and C of the stacked CCR are as they were before the instruction; `wavFinish` alone draws them. DESIGN CHOICE
(log entry 8): the queue is given up first, so that the six bytes count as stored after the change of flow (20_memory.md
R101, R102), as the frame does. -/
def State.wavInterrupt (s : State) (sums : Sums) (resumeAt : Word) (e : Event) : State :=
  match e with
  | .reset v => s.takeEvent (.reset v)
  | .interrupt v setX =>
    let t := (s.refill.push16 (sums.sop.extractLsb' 0 16)).push16 (sums.sop.extractLsb' 16 16)
    (t.push16 sums.sow).exceptionSequence resumeAt v setX
  | .resume => s

/-- The loop of WAV with `n` elements left (R527): the element is read, the requests are checked, and only then is the
element counted. `resumeAt` is the address of the byte $3C, `pcEnd` the address after the instruction. -/
def wavLoop (resumeAt pcEnd : Word) : Nat → Sums → State → State
  | 0, sums, s => s.wavFinish sums pcEnd
  | n + 1, sums, s =>
    let f := s.read8 s.y
    let v := f.2.read8 s.x
    let q := v.2.sample
    q.2.unlessCut q.1 fun u =>
      match u.eventOf q.1 with
      | some e => u.wavInterrupt sums resumeAt e
      | none =>
        wavLoop resumeAt pcEnd n
          { sop := sums.sop + BitVec.ofNat 32 (v.1.toNat * f.1.toNat), sow := sums.sow + f.1.zeroExtend 16 }
          { u with y := s.y + 1, x := s.x + 1, b := s.b - 1 }

/-- MEM: grade of membership; H, N, Z, V, C are drawn, U1 (46_fuzzy.md R521). -/
def execMem (s : State) : Result :=
  let t := s.advance .mem
  let p1 := t.read8 t.x
  let p2 := p1.2.read8 (t.x + 1)
  let s1 := p2.2.read8 (t.x + 2)
  let s2 := s1.2.read8 (t.x + 3)
  let u := s2.2.write8 t.y (memGrade t.a p1.1 p2.1 s1.1 s2.1)
  .next ({ u with x := t.x + 4, y := t.y + 1 }.drawFlags [.h, .n, .z, .v, .c])

/-- REV: rule evaluation, unweighted; H, N, Z, C are drawn, U1 (46_fuzzy.md R523). -/
def execRev (s : State) : Result :=
    .next (ruleLoop State.revTurn (fun t => (t.advance .rev).drawFlags [.h, .n, .z, .c]) .rev ruleQuantum s)

/-- REVW: rule evaluation, weighted; H, N, Z are drawn, U1 (46_fuzzy.md R525). -/
def execRevw (s : State) : Result :=
    .next (ruleLoop State.revwTurn (fun t => (t.advance .revw).drawFlags [.h, .n, .z]) .revw ruleQuantum s)

/-- WAV: weighted average; B = 0 is refused, D21 (46_fuzzy.md R527). -/
def execWav (s : State) : Result :=
  if s.b = 0 then .refused .wavCountZero
  else .next (wavLoop (s.pc + 1) (s.advance .wav).pc s.b.toNat { sop := 0, sow := 0 } s)

/-- wavr: resume an interrupted WAV; B = 0 is refused, D21 (46_fuzzy.md R529). -/
def execWavr (s : State) : Result :=
  if s.b = 0 then .refused .wavCountZero
  else
    let sow := s.pull16
    let hi := sow.2.pull16
    let lo := hi.2.pull16
    .next (wavLoop s.pc (s.advance .wavr).pc s.b.toNat { sop := hi.1 ++ lo.1, sow := sow.1 } lo.2)

end Sys2Proof.Machine
end

