-- ==== Sys2Proof/Machine/LoadStore.lean ====
section
/-!
DEFINITION. Loads, stores and load-effective-address instructions (spec/40_load_store_lea.md).
One definition per instruction.
-/

namespace Sys2Proof.Machine

/-- Does a LEA name its own destination as a post-modified base? The two writes are not ordered (D28). -/
def leaPostOwn (f : IdxDirect) (own : AutoBase) : Bool :=
  match f with
  | .short (.post r _) => r == own
  | .short (.const5 _ _) => false
  | .short (.pre _ _) => false
  | .short (.acc _ _) => false
  | .const9 _ _ => false
  | .const16 _ _ => false

/-- A LEA: the effective address goes to the register `own` (R174 to R176); the post form on `own` itself is refused
(93_implementation_defined.md U16; log entry 11). -/
def leaInto (f : IdxDirect) (own : AutoBase) (s : State) : Result :=
  if leaPostOwn f own then .refused .leaPostOwnBase
  else
    let p := s.eaDirect f
    .next (p.2.setAutoBase own p.1)

/-- LDAA: load A (40_load_store_lea.md R162). -/
def execLdaa (o : Operand8) (s : State) : Result :=
  .next ((s.advance (.ldaa o)).with8 o fun m t => { t with a := m, ccr := logicFlags8 t.ccr m })

/-- LDAB: load B (40_load_store_lea.md R163). -/
def execLdab (o : Operand8) (s : State) : Result :=
  .next ((s.advance (.ldab o)).with8 o fun m t => { t with b := m, ccr := logicFlags8 t.ccr m })

/-- LDD: load D (40_load_store_lea.md R164). -/
def execLdd (o : Operand16) (s : State) : Result :=
  .next ((s.advance (.ldd o)).with16 o fun m t => { t.setD m with ccr := logicFlags16 t.ccr m })

/-- LDS: load SP; the loaded value wins over an automatic modification of SP (40_load_store_lea.md R165). -/
def execLds (o : Operand16) (s : State) : Result :=
  .next ((s.advance (.lds o)).with16 o fun m t => { t with sp := m, ccr := logicFlags16 t.ccr m })

/-- LDX: load X; the loaded value wins over an automatic modification of X (40_load_store_lea.md R166). -/
def execLdx (o : Operand16) (s : State) : Result :=
  .next ((s.advance (.ldx o)).with16 o fun m t => { t with x := m, ccr := logicFlags16 t.ccr m })

/-- LDY: load Y; the loaded value wins over an automatic modification of Y (40_load_store_lea.md R167). -/
def execLdy (o : Operand16) (s : State) : Result :=
  .next ((s.advance (.ldy o)).with16 o fun m t => { t with y := m, ccr := logicFlags16 t.ccr m })

/-- STAA: store A (40_load_store_lea.md R168). -/
def execStaa (m : MemOperand) (s : State) : Result := .next ((s.advance (.staa m)).store8 m State.a)

/-- STAB: store B (40_load_store_lea.md R169). -/
def execStab (m : MemOperand) (s : State) : Result := .next ((s.advance (.stab m)).store8 m State.b)

/-- STD: store D (40_load_store_lea.md R170). -/
def execStd (m : MemOperand) (s : State) : Result := .next ((s.advance (.std m)).store16 m State.d)

/-- STS: store SP, after an automatic modification of SP (40_load_store_lea.md R171). -/
def execSts (m : MemOperand) (s : State) : Result := .next ((s.advance (.sts m)).store16 m State.sp)

/-- STX: store X, after an automatic modification of X (40_load_store_lea.md R172). -/
def execStx (m : MemOperand) (s : State) : Result := .next ((s.advance (.stx m)).store16 m State.x)

/-- STY: store Y, after an automatic modification of Y (40_load_store_lea.md R173). -/
def execSty (m : MemOperand) (s : State) : Result := .next ((s.advance (.sty m)).store16 m State.y)

/-- LEAS: load effective address into SP (40_load_store_lea.md R174). -/
def execLeas (f : IdxDirect) (s : State) : Result := leaInto f .sp (s.advance (.leas f))

/-- LEAX: load effective address into X (40_load_store_lea.md R175). -/
def execLeax (f : IdxDirect) (s : State) : Result := leaInto f .x (s.advance (.leax f))

/-- LEAY: load effective address into Y (40_load_store_lea.md R176). -/
def execLeay (f : IdxDirect) (s : State) : Result := leaInto f .y (s.advance (.leay f))

/-- ABX: X ← X + B, B unsigned (40_load_store_lea.md R177). -/
def execAbx (s : State) : Result :=
  let t := s.advance .abx
  .next { t with x := t.x + t.b.zeroExtend 16 }

/-- ABY: Y ← Y + B, B unsigned (40_load_store_lea.md R178). -/
def execAby (s : State) : Result :=
  let t := s.advance .aby
  .next { t with y := t.y + t.b.zeroExtend 16 }

/-- DES: SP ← SP - 1 (40_load_store_lea.md R179). -/
def execDes (s : State) : Result :=
  let t := s.advance .des
  .next { t with sp := t.sp - 1 }

/-- INS: SP ← SP + 1 (40_load_store_lea.md R180). -/
def execIns (s : State) : Result :=
  let t := s.advance .ins
  .next { t with sp := t.sp + 1 }

end Sys2Proof.Machine
end

