-- ==== Sys2Proof/Machine/Logic.lean ====
section
/-!
DEFINITION. Logic, complement, clear, condition-code and bit instructions (spec/43_logic_bit_shift.md, sections 1 to 4).
One definition per instruction.
-/

namespace Sys2Proof.Machine

/-- ANDA: A ← A AND operand (43_logic_bit_shift.md R320). -/
def execAnda (o : Operand8) (s : State) : Result := .next ((s.advance (.anda o)).aluA o and8)

/-- ANDB: B ← B AND operand (43_logic_bit_shift.md R321). -/
def execAndb (o : Operand8) (s : State) : Result := .next ((s.advance (.andb o)).aluB o and8)

/-- ORAA: A ← A OR operand (43_logic_bit_shift.md R322). -/
def execOraa (o : Operand8) (s : State) : Result := .next ((s.advance (.oraa o)).aluA o or8)

/-- ORAB: B ← B OR operand (43_logic_bit_shift.md R323). -/
def execOrab (o : Operand8) (s : State) : Result := .next ((s.advance (.orab o)).aluB o or8)

/-- EORA: A ← A exclusive OR operand (43_logic_bit_shift.md R324). -/
def execEora (o : Operand8) (s : State) : Result := .next ((s.advance (.eora o)).aluA o eor8)

/-- EORB: B ← B exclusive OR operand (43_logic_bit_shift.md R325). -/
def execEorb (o : Operand8) (s : State) : Result := .next ((s.advance (.eorb o)).aluB o eor8)

/-- BITA: the flags of A AND operand (43_logic_bit_shift.md R326). -/
def execBita (o : Operand8) (s : State) : Result := .next ((s.advance (.bita o)).testA o and8)

/-- BITB: the flags of B AND operand (43_logic_bit_shift.md R327). -/
def execBitb (o : Operand8) (s : State) : Result := .next ((s.advance (.bitb o)).testB o and8)

/-- COM: complement of a memory byte (43_logic_bit_shift.md R328). -/
def execCom (m : RmwOperand) (s : State) : Result := .next ((s.advance (.com m)).rmw m com8)

/-- COMA: complement of A (43_logic_bit_shift.md R329). -/
def execComa (s : State) : Result := .next ((s.advance .coma).unaryA com8)

/-- COMB: complement of B (43_logic_bit_shift.md R330). -/
def execComb (s : State) : Result := .next ((s.advance .comb).unaryB com8)

/-- CLR: memory byte ← 0; memory is not read (43_logic_bit_shift.md R331). -/
def execClr (m : RmwOperand) (s : State) : Result :=
  let p := (s.advance (.clr m)).eaRmw m
  .next ((p.2.write8 p.1 0).setCcr (clrFlags s.ccr))

/-- CLRA: A ← 0 (43_logic_bit_shift.md R332). -/
def execClra (s : State) : Result := .next ((s.advance .clra).setA (0, clrFlags s.ccr))

/-- CLRB: B ← 0 (43_logic_bit_shift.md R333). -/
def execClrb (s : State) : Result := .next ((s.advance .clrb).setB (0, clrFlags s.ccr))

/-- ANDCC: CCR ← CCR AND mask (43_logic_bit_shift.md R334). -/
def execAndcc (imm : Byte) (s : State) : Result :=
  .next ((s.advance (.andcc imm)).setCcr (writeCcr s.ccr (s.ccr &&& imm)))

/-- ORCC: CCR ← CCR OR mask, X never set (43_logic_bit_shift.md R335). -/
def execOrcc (imm : Byte) (s : State) : Result :=
  .next ((s.advance (.orcc imm)).setCcr (writeCcr s.ccr (s.ccr ||| imm)))

/-- CLC: C ← 0 (43_logic_bit_shift.md R336). -/
def execClc (s : State) : Result := .next ((s.advance .clc).setCcr (setFlag s.ccr .c false))

/-- CLI: I ← 0 (43_logic_bit_shift.md R337). -/
def execCli (s : State) : Result := .next ((s.advance .cli).setCcr (setFlag s.ccr .i false))

/-- CLV: V ← 0 (43_logic_bit_shift.md R338). -/
def execClv (s : State) : Result := .next ((s.advance .clv).setCcr (setFlag s.ccr .v false))

/-- SEC: C ← 1 (43_logic_bit_shift.md R339). -/
def execSec (s : State) : Result := .next ((s.advance .sec).setCcr (setFlag s.ccr .c true))

/-- SEI: I ← 1 (43_logic_bit_shift.md R340). -/
def execSei (s : State) : Result := .next ((s.advance .sei).setCcr (setFlag s.ccr .i true))

/-- SEV: V ← 1 (43_logic_bit_shift.md R341). -/
def execSev (s : State) : Result := .next ((s.advance .sev).setCcr (setFlag s.ccr .v true))

/-- BCLR: clear the masked bits of a memory byte (43_logic_bit_shift.md R342). -/
def execBclr (m : BitOperand) (mask : Byte) (s : State) : Result :=
  .next ((s.advance (.bclr m mask)).modifyBits m fun v => v &&& ~~~mask)

/-- BSET: set the masked bits of a memory byte (43_logic_bit_shift.md R343). -/
def execBset (m : BitOperand) (mask : Byte) (s : State) : Result :=
  .next ((s.advance (.bset m mask)).modifyBits m fun v => v ||| mask)

end Sys2Proof.Machine
end

