-- ==== Sys2Proof/Machine/Move.lean ====
section
/-!
DEFINITION. Memory-to-memory moves, transfers and exchanges (spec/41_move_transfer_stack.md, sections 1 to 3).
One definition per instruction.
-/

namespace Sys2Proof.Machine

/-- Is PC the index base of a form of the class *no extension*? -/
def shortUsesPc (f : IdxShort) : Bool :=
  match f with
  | .const5 r _ => r == .pc
  | .acc r _ => r == .pc
  | .pre _ _ => false
  | .post _ _ => false

/-- Is PC the index base of MOVB's source? -/
def source8UsesPc (o : MoveSource8) : Bool :=
  match o with
  | .imm _ => false
  | .ext _ => false
  | .idx f => shortUsesPc f

/-- Is PC the index base of MOVW's source? -/
def source16UsesPc (o : MoveSource16) : Bool :=
  match o with
  | .imm _ => false
  | .ext _ => false
  | .idx f => shortUsesPc f

/-- Is PC the index base of a move's destination? -/
def destUsesPc (d : MoveDest) : Bool :=
  match d with
  | .ext _ => false
  | .idx f => shortUsesPc f

/-- On the M68HC12 a move sees another PC as index base, which the spec does not give: refused (30_encoding.md R131, D10;
log entry 24). -/
def moveRefused (s : State) (usesPc : Bool) : Bool := s.cfg.variant == .m68hc12 && usesPc

/-- A byte move: the source with its automatic modification first, then the destination (R200, 30_encoding.md R130). -/
def State.moveByte (s : State) (src : MoveSource8) (dst : MoveDest) : State :=
  let v := s.moveSource8 src
  let p := v.2.eaDest dst
  p.2.write8 p.1 v.1

/-- A word move: the whole source is read before a byte is written (R201). -/
def State.moveWord (s : State) (src : MoveSource16) (dst : MoveDest) : State :=
  let v := s.moveSource16 src
  let p := v.2.eaDest dst
  p.2.write16 p.1 v.1

/-- TFR by the sizes of its operands: same size (R210), 8 to 16 with sign extension (R211), 16 to 8 (R212). -/
def State.transfer (s : State) (r1 r2 : Reg) : State :=
  match r1, r2 with
  | .r8 p, .r8 q => s.setReg8 q (s.getReg8 p)
  | .r8 p, .r16 q => s.setReg16 q ((s.getReg8 p).signExtend 16)
  | .r16 p, .r8 q => s.setReg8 q ((s.getReg16 p).extractLsb' 0 8)
  | .r16 p, .r16 q => s.setReg16 q (s.getReg16 p)

/-- EXG of two 8-bit registers (R213): both are read before either is written. -/
def State.exchange8 (s : State) (p q : Reg8) : State := (s.setReg8 p (s.getReg8 q)).setReg8 q (s.getReg8 p)

/-- EXG of two 16-bit registers (R213). -/
def State.exchange16 (s : State) (p q : Reg16) : State := (s.setReg16 p (s.getReg16 q)).setReg16 q (s.getReg16 p)

/-- EXG with the 8-bit register first (R214): the 16-bit register takes $00:r1; what the 8-bit register takes the source
does not say, so it is drawn (U14, D19; log entry 12). A and B are halves of D, so with D they are written by `D ← $00:r1`
alone. -/
def State.exchange8To16 (s : State) (p : Reg8) (q : Reg16) : State :=
  let t := s.setReg16 q ((s.getReg8 p).zeroExtend 16)
  match p, q with
  | .a, .d => t
  | .b, .d => t
  | _, _ => t.drawByte.2.setReg8 p t.drawByte.1

/-- EXG with the 16-bit register first (R215): its low byte and the 8-bit register are exchanged; what its high byte
becomes the source does not say, so it is drawn (U14, D19; log entry 12). A and B are halves of D: `EXG D,A` writes both,
`EXG D,B` leaves the low byte. -/
def State.exchange16To8 (s : State) (p : Reg16) (q : Reg8) : State :=
  let low := (s.getReg16 p).extractLsb' 0 8
  let high := s.drawByte
  match p, q with
  | .d, .a => { s with a := s.b, b := s.a }
  | .d, .b => { high.2 with a := high.1 }
  | _, _ => (high.2.setReg16 p (high.1 ++ s.getReg8 q)).setReg8 q low

/-- EXG by the sizes of its operands (R213 to R215). -/
def State.exchange (s : State) (r1 r2 : Reg) : State :=
  match r1, r2 with
  | .r8 p, .r8 q => s.exchange8 p q
  | .r8 p, .r16 q => s.exchange8To16 p q
  | .r16 p, .r8 q => s.exchange16To8 p q
  | .r16 p, .r16 q => s.exchange16 p q

/-- MOVB: move a byte (41_move_transfer_stack.md R200). -/
def execMovb (src : MoveSource8) (dst : MoveDest) (s : State) : Result :=
  if moveRefused s (source8UsesPc src || destUsesPc dst) then .refused .movePcBase
  else .next ((s.advance (.movb src dst)).moveByte src dst)

/-- MOVW: move a word (41_move_transfer_stack.md R201). -/
def execMovw (src : MoveSource16) (dst : MoveDest) (s : State) : Result :=
  if moveRefused s (source16UsesPc src || destUsesPc dst) then .refused .movePcBase
  else .next ((s.advance (.movw src dst)).moveWord src dst)

/-- TFR: transfer register to register (41_move_transfer_stack.md R210). -/
def execTfr (r1 : Reg) (r2 : Reg) (s : State) : Result := .next ((s.advance (.tfr r1 r2)).transfer r1 r2)

/-- EXG: exchange registers (41_move_transfer_stack.md R213). -/
def execExg (r1 : Reg) (r2 : Reg) (s : State) : Result := .next ((s.advance (.exg r1 r2)).exchange r1 r2)

/-- SEX: sign-extend an 8-bit register into a 16-bit one (41_move_transfer_stack.md R217). -/
def execSex (r1 : Reg8) (r2 : Reg16) (s : State) : Result :=
  .next ((s.advance (.sex r1 r2)).setReg16 r2 ((s.getReg8 r1).signExtend 16))

/-- TAP: CCR ← A under `WriteCCR` (41_move_transfer_stack.md R218). -/
def execTap (s : State) : Result := .next ((s.advance .tap).setCcr (writeCcr s.ccr s.a))

/-- TPA: A ← CCR (41_move_transfer_stack.md R219). -/
def execTpa (s : State) : Result := .next ({ s.advance .tpa with a := s.ccr })

/-- TSX: X ← SP (41_move_transfer_stack.md R220). -/
def execTsx (s : State) : Result := .next ({ s.advance .tsx with x := s.sp })

/-- TSY: Y ← SP (41_move_transfer_stack.md R221). -/
def execTsy (s : State) : Result := .next ({ s.advance .tsy with y := s.sp })

/-- TXS: SP ← X (41_move_transfer_stack.md R222). -/
def execTxs (s : State) : Result := .next ({ s.advance .txs with sp := s.x })

/-- TYS: SP ← Y (41_move_transfer_stack.md R223). -/
def execTys (s : State) : Result := .next ({ s.advance .tys with sp := s.y })

/-- XGDX: exchange D and X (41_move_transfer_stack.md R224). -/
def execXgdx (s : State) : Result := .next ({ (s.advance .xgdx).setD s.x with x := s.d })

/-- XGDY: exchange D and Y (41_move_transfer_stack.md R225). -/
def execXgdy (s : State) : Result := .next ({ (s.advance .xgdy).setD s.y with y := s.d })

/-- TAB: B ← A with the flags of a load (41_move_transfer_stack.md R226). -/
def execTab (s : State) : Result := .next ({ s.advance .tab with b := s.a, ccr := logicFlags8 s.ccr s.a })

/-- TBA: A ← B with the flags of a load (41_move_transfer_stack.md R227). -/
def execTba (s : State) : Result := .next ({ s.advance .tba with a := s.b, ccr := logicFlags8 s.ccr s.b })

end Sys2Proof.Machine
end

