-- ==== Sys2Proof/Machine/MulDiv.lean ====
section
/-!
DEFINITION. Multiply, divide, multiply-accumulate, minimum and maximum, table interpolation
(spec/44_multiply_divide_minmax_table.md).
One definition per instruction.
-/

namespace Sys2Proof.Machine

/-- Y:D ← a 32-bit product, with N, Z and C = bit 15 (R391, R392). -/
def State.setProduct (s : State) (p : BitVec 32) : State :=
  let ccr := setFlag (setFlag (setFlag s.ccr .n p.msb) .z (p == 0)) .c (p.getLsbD 15)
  { s.setD (p.extractLsb' 0 16) with y := p.extractLsb' 16 16, ccr := ccr }

/-- Y:D, the dividend of the extended divides (R394, R395). -/
def State.yd (s : State) : BitVec 32 := s.y ++ s.d

/-- An extended divide that has no result (R394, R395): C tells a zero divisor, V an overflow; Y and D are those of
`Config.divCorner` (U7, D14; log entry 13) and the flags the rule leaves undefined are drawn. -/
def State.extendedCorner (s : State) (op : DivOp) (byZero : Bool) : State :=
  let p := Config.divCorner op s.yd s.x
  let t : State := { s.setD p.2 with y := p.1 }
  if byZero then (t.setCcr (setFlag t.ccr .c true)).drawFlags [.n, .z, .v]
  else (t.setCcr (setFlag (setFlag t.ccr .c false) .v true)).drawFlags [.n, .z]

/-- An extended divide with its result: quotient in Y, remainder in D. -/
def State.extendedResult (s : State) (q r : Word) : State :=
  { s.setD r with y := q, ccr := setNZVC s.ccr q.msb (q == 0) false false }

/-- EDIV on the state whose PC is already PCnext (R394). -/
def State.divideExtended (s : State) : State :=
  let n := s.yd.toNat
  let d := s.x.toNat
  if d = 0 then s.extendedCorner .ediv true
  else if 65535 < n / d then s.extendedCorner .ediv false
  else s.extendedResult (BitVec.ofNat 16 (n / d)) (BitVec.ofNat 16 (n % d))

/-- EDIVS on the state whose PC is already PCnext (R395): the quotient truncates toward zero, the remainder has the
dividend's sign (R393; PRESUMED K25). -/
def State.divideExtendedSigned (s : State) : State :=
  let n := s.yd.toInt
  let d := s.x.toInt
  if d = 0 then s.extendedCorner .edivs true
  else if 32767 < n.tdiv d || n.tdiv d < -32768 then s.extendedCorner .edivs false
  else s.extendedResult (BitVec.ofInt 16 (n.tdiv d)) (BitVec.ofInt 16 (n.tmod d))

/-- A 16-by-16 divide without a result whose quotient register is stated as $FFFF (R396, R397): D is that of
`Config.divCorner` (log entry 13). -/
def State.shortCorner (s : State) (op : DivOp) (v c : Bool) : State :=
  let p := Config.divCorner op (s.d.zeroExtend 32) s.x
  { s.setD p.2 with x := 0xFFFF, ccr := setFlag (setFlag (setFlag s.ccr .z false) .v v) .c c }

/-- A 16-by-16 divide with its result: quotient in X, remainder in D, V and C cleared, Z from the quotient. -/
def State.shortResult (s : State) (q r : Word) : State :=
  { s.setD r with x := q, ccr := setFlag (setFlag (setFlag s.ccr .z (q == 0)) .v false) .c false }

/-- FDIV on the state whose PC is already PCnext (R396). -/
def State.divideFraction (s : State) : State :=
  let n := s.d.toNat
  let d := s.x.toNat
  if d = 0 then s.shortCorner .fdiv true true
  else if d ≤ n then s.shortCorner .fdiv true false
  else s.shortResult (BitVec.ofNat 16 (n * 65536 / d)) (BitVec.ofNat 16 (n * 65536 % d))

/-- IDIV on the state whose PC is already PCnext (R397). -/
def State.divideInteger (s : State) : State :=
  let n := s.d.toNat
  let d := s.x.toNat
  if d = 0 then s.shortCorner .idiv false true
  else s.shortResult (BitVec.ofNat 16 (n / d)) (BitVec.ofNat 16 (n % d))

/-- IDIVS without a result (R398): X and D are those of `Config.divCorner`, the undefined flags are drawn. -/
def State.signedCorner (s : State) (byZero : Bool) : State :=
  let p := Config.divCorner .idivs (s.d.signExtend 32) s.x
  let t : State := { s.setD p.2 with x := p.1 }
  if byZero then (t.setCcr (setFlag t.ccr .c true)).drawFlags [.n, .z, .v]
  else (t.setCcr (setFlag (setFlag t.ccr .c false) .v true)).drawFlags [.n, .z]

/-- IDIVS on the state whose PC is already PCnext (R398). -/
def State.divideSigned (s : State) : State :=
  let n := s.d.toInt
  let d := s.x.toInt
  let q := BitVec.ofInt 16 (n.tdiv d)
  if d = 0 then s.signedCorner true
  else if n.tdiv d = 32768 then s.signedCorner false
  else
    { s.setD (BitVec.ofInt 16 (n.tmod d)) with
      x := q, ccr := setNZVC s.ccr q.msb (q == 0) false false }

/-- EMACS on the state whose PC is already PCnext (R400): the two multiplicands, then the old sum, are read; the high
word of the new sum is written first (DESIGN CHOICE for the order of the writes; log entry 23). -/
def State.multiplyAccumulate (s : State) (ea : Word) : State :=
  let a := s.read16 s.x
  let b := a.2.read16 s.y
  let hi := b.2.read16 ea
  let lo := hi.2.read16 (ea + 2)
  let p : BitVec 32 := BitVec.ofInt 32 (a.1.toInt * b.1.toInt)
  let acc : BitVec 32 := hi.1 ++ lo.1
  let r := acc + p
  let v := acc.msb == p.msb && r.msb != acc.msb
  let c := (acc.getLsbD 15 && p.getLsbD 15) || (p.getLsbD 15 && !r.getLsbD 15) || (!r.getLsbD 15 && acc.getLsbD 15)
  ((lo.2.write16 ea (r.extractLsb' 16 16)).write16 (ea + 2) (r.extractLsb' 0 16)).setCcr
    (setNZVC s.ccr r.msb (r == 0) v c)

/-- The larger or the smaller of two unsigned values (R410 to R417). -/
def pickMax {w : Nat} (a m : BitVec w) : BitVec w := if a < m then m else a

/-- The smaller of two unsigned values. -/
def pickMin {w : Nat} (a m : BitVec w) : BitVec w := if m < a then m else a

/-- MAXA and MINA: A ← the chosen of A and M, flags of A - M (R410, R412). -/
def State.chooseA (s : State) (f : IdxFull) (pick : Byte → Byte → Byte) : State :=
  let p := s.eaFull f
  let m := p.2.read8 p.1
  m.2.setA (pick m.2.a m.1, (sub8 m.2.ccr m.2.a m.1 false).2)

/-- EMAXD and EMIND: D ← the chosen of D and M:M+1, flags of D - (M:M+1) (R414, R416). -/
def State.chooseD (s : State) (f : IdxFull) (pick : Word → Word → Word) : State :=
  let p := s.eaFull f
  let m := p.2.read16 p.1
  m.2.setDFlags (pick m.2.d m.1, (sub16 m.2.ccr m.2.d m.1).2)

/-- MAXM and MINM: M ← the chosen of A and M, written always (R411, R413). -/
def State.choose8 (s : State) (f : IdxFull) (pick : Byte → Byte → Byte) : State :=
  let p := s.eaFull f
  let m := p.2.read8 p.1
  (m.2.write8 p.1 (pick m.2.a m.1)).setCcr (sub8 m.2.ccr m.2.a m.1 false).2

/-- EMAXM and EMINM: M:M+1 ← the chosen of D and M:M+1, written always (R415, R417). -/
def State.choose16 (s : State) (f : IdxFull) (pick : Word → Word → Word) : State :=
  let p := s.eaFull f
  let m := p.2.read16 p.1
  (m.2.write16 p.1 (pick m.2.d m.1)).setCcr (sub16 m.2.ccr m.2.d m.1).2

/-- B × (y2 - y1), the exact signed product of a table interpolation (R430, R431). -/
def tableProduct (b : Byte) (y1 y2 : Nat) : Int := (b.toNat : Int) * ((y2 : Int) - (y1 : Int))

/-- The C flag of a table interpolation: bit 7 of the product on the HCS12, undefined on the M68HC12 (R430, U10). -/
def State.tableCarry (s : State) (product : Int) : State :=
  match s.cfg.variant with
  | .hcs12 => s.setCcr (setFlag s.ccr .c ((BitVec.ofInt 8 product).getLsbD 7))
  | .m68hc12 => s.drawFlag .c

/-- TBL on the state whose PC is already PCnext (R430; PRESUMED K14, D24, log entry 20). -/
def State.tableLookup8 (s : State) (f : IdxShort) : State :=
  let p := s.eaShort f
  let y1 := p.2.read8 p.1
  let y2 := y1.2.read8 (p.1 + 1)
  let prod := tableProduct s.b y1.1.toNat y2.1.toNat
  let r := BitVec.ofInt 8 ((y1.1.toNat : Int) + prod / 256)
  (y2.2.setA (r, setFlag (setFlag y2.2.ccr .n r.msb) .z (r == 0))).tableCarry prod

/-- ETBL on the state whose PC is already PCnext (R431; PRESUMED K14, D24, log entry 20). -/
def State.tableLookup16 (s : State) (f : IdxShort) : State :=
  let p := s.eaShort f
  let y1 := p.2.read16 p.1
  let y2 := y1.2.read16 (p.1 + 2)
  let prod := tableProduct s.b y1.1.toNat y2.1.toNat
  let r := BitVec.ofInt 16 ((y1.1.toNat : Int) + prod / 256)
  (y2.2.setDFlags (r, setFlag (setFlag y2.2.ccr .n r.msb) .z (r == 0))).tableCarry prod

/-- MUL: D ← A × B, unsigned; C is bit 7 of the product (44_multiply_divide_minmax_table.md R390). -/
def execMul (s : State) : Result :=
  let p := BitVec.ofNat 16 (s.a.toNat * s.b.toNat)
  .next ((s.advance .mul).setDFlags (p, setFlag s.ccr .c (p.getLsbD 7)))

/-- EMUL: Y:D ← D × Y, unsigned (44_multiply_divide_minmax_table.md R391). -/
def execEmul (s : State) : Result := .next ((s.advance .emul).setProduct (BitVec.ofNat 32 (s.d.toNat * s.y.toNat)))

/-- EMULS: Y:D ← D × Y, signed (44_multiply_divide_minmax_table.md R392). -/
def execEmuls (s : State) : Result := .next ((s.advance .emuls).setProduct (BitVec.ofInt 32 (s.d.toInt * s.y.toInt)))

/-- EDIV: Y, D ← Y:D ÷ X, unsigned (44_multiply_divide_minmax_table.md R394). -/
def execEdiv (s : State) : Result := .next ((s.advance .ediv).divideExtended)

/-- EDIVS: Y, D ← Y:D ÷ X, signed (44_multiply_divide_minmax_table.md R395). -/
def execEdivs (s : State) : Result := .next ((s.advance .edivs).divideExtendedSigned)

/-- FDIV: X, D ← D ÷ X, fractional (44_multiply_divide_minmax_table.md R396). -/
def execFdiv (s : State) : Result := .next ((s.advance .fdiv).divideFraction)

/-- IDIV: X, D ← D ÷ X, unsigned (44_multiply_divide_minmax_table.md R397). -/
def execIdiv (s : State) : Result := .next ((s.advance .idiv).divideInteger)

/-- IDIVS: X, D ← D ÷ X, signed (44_multiply_divide_minmax_table.md R398). -/
def execIdivs (s : State) : Result := .next ((s.advance .idivs).divideSigned)

/-- EMACS: 32-bit memory accumulator plus a signed product (44_multiply_divide_minmax_table.md R400). -/
def execEmacs (addr : Word) (s : State) : Result := .next ((s.advance (.emacs addr)).multiplyAccumulate addr)

/-- MAXA: A ← the larger of A and M (44_multiply_divide_minmax_table.md R410). -/
def execMaxa (f : IdxFull) (s : State) : Result := .next ((s.advance (.maxa f)).chooseA f pickMax)

/-- MAXM: M ← the larger of A and M (44_multiply_divide_minmax_table.md R411). -/
def execMaxm (f : IdxFull) (s : State) : Result := .next ((s.advance (.maxm f)).choose8 f pickMax)

/-- MINA: A ← the smaller of A and M (44_multiply_divide_minmax_table.md R412). -/
def execMina (f : IdxFull) (s : State) : Result := .next ((s.advance (.mina f)).chooseA f pickMin)

/-- MINM: M ← the smaller of A and M (44_multiply_divide_minmax_table.md R413). -/
def execMinm (f : IdxFull) (s : State) : Result := .next ((s.advance (.minm f)).choose8 f pickMin)

/-- EMAXD: D ← the larger of D and M:M+1 (44_multiply_divide_minmax_table.md R414). -/
def execEmaxd (f : IdxFull) (s : State) : Result := .next ((s.advance (.emaxd f)).chooseD f pickMax)

/-- EMAXM: M:M+1 ← the larger of D and M:M+1 (44_multiply_divide_minmax_table.md R415). -/
def execEmaxm (f : IdxFull) (s : State) : Result := .next ((s.advance (.emaxm f)).choose16 f pickMax)

/-- EMIND: D ← the smaller of D and M:M+1 (44_multiply_divide_minmax_table.md R416). -/
def execEmind (f : IdxFull) (s : State) : Result := .next ((s.advance (.emind f)).chooseD f pickMin)

/-- EMINM: M:M+1 ← the smaller of D and M:M+1 (44_multiply_divide_minmax_table.md R417). -/
def execEminm (f : IdxFull) (s : State) : Result := .next ((s.advance (.eminm f)).choose16 f pickMin)

/-- TBL: 8-bit table lookup and interpolation (44_multiply_divide_minmax_table.md R430). -/
def execTbl (f : IdxShort) (s : State) : Result := .next ((s.advance (.tbl f)).tableLookup8 f)

/-- ETBL: 16-bit table lookup and interpolation (44_multiply_divide_minmax_table.md R431). -/
def execEtbl (f : IdxShort) (s : State) : Result := .next ((s.advance (.etbl f)).tableLookup16 f)

end Sys2Proof.Machine
end

