-- ==== Sys2Proof/Machine/Shift.lean ====
section
/-!
DEFINITION. Shifts and rotates (spec/43_logic_bit_shift.md, section 5).
One definition per instruction.
-/

namespace Sys2Proof.Machine

/-- LSL: shift left, a memory byte (43_logic_bit_shift.md R351). -/
def execLsl (m : RmwOperand) (s : State) : Result := .next ((s.advance (.lsl m)).rmw m lsl8)

/-- LSLA: shift left, A (43_logic_bit_shift.md R352). -/
def execLsla (s : State) : Result := .next ((s.advance .lsla).unaryA lsl8)

/-- LSLB: shift left, B (43_logic_bit_shift.md R353). -/
def execLslb (s : State) : Result := .next ((s.advance .lslb).unaryB lsl8)

/-- ASL: shift left, a memory byte (43_logic_bit_shift.md R351). -/
def execAsl (m : RmwOperand) (s : State) : Result := .next ((s.advance (.asl m)).rmw m lsl8)

/-- ASLA: shift left, A (43_logic_bit_shift.md R352). -/
def execAsla (s : State) : Result := .next ((s.advance .asla).unaryA lsl8)

/-- ASLB: shift left, B (43_logic_bit_shift.md R353). -/
def execAslb (s : State) : Result := .next ((s.advance .aslb).unaryB lsl8)

/-- ASR: arithmetic shift right, a memory byte (43_logic_bit_shift.md R355). -/
def execAsr (m : RmwOperand) (s : State) : Result := .next ((s.advance (.asr m)).rmw m asr8)

/-- ASRA: arithmetic shift right, A (43_logic_bit_shift.md R356). -/
def execAsra (s : State) : Result := .next ((s.advance .asra).unaryA asr8)

/-- ASRB: arithmetic shift right, B (43_logic_bit_shift.md R357). -/
def execAsrb (s : State) : Result := .next ((s.advance .asrb).unaryB asr8)

/-- LSR: logical shift right, a memory byte (43_logic_bit_shift.md R358). -/
def execLsr (m : RmwOperand) (s : State) : Result := .next ((s.advance (.lsr m)).rmw m lsr8)

/-- LSRA: logical shift right, A (43_logic_bit_shift.md R359). -/
def execLsra (s : State) : Result := .next ((s.advance .lsra).unaryA lsr8)

/-- LSRB: logical shift right, B (43_logic_bit_shift.md R360). -/
def execLsrb (s : State) : Result := .next ((s.advance .lsrb).unaryB lsr8)

/-- ROL: rotate left through C, a memory byte (43_logic_bit_shift.md R362). -/
def execRol (m : RmwOperand) (s : State) : Result := .next ((s.advance (.rol m)).rmw m rol8)

/-- ROLA: rotate left through C, A (43_logic_bit_shift.md R363). -/
def execRola (s : State) : Result := .next ((s.advance .rola).unaryA rol8)

/-- ROLB: rotate left through C, B (43_logic_bit_shift.md R364). -/
def execRolb (s : State) : Result := .next ((s.advance .rolb).unaryB rol8)

/-- ROR: rotate right through C, a memory byte (43_logic_bit_shift.md R365). -/
def execRor (m : RmwOperand) (s : State) : Result := .next ((s.advance (.ror m)).rmw m ror8)

/-- RORA: rotate right through C, A (43_logic_bit_shift.md R366). -/
def execRora (s : State) : Result := .next ((s.advance .rora).unaryA ror8)

/-- RORB: rotate right through C, B (43_logic_bit_shift.md R367). -/
def execRorb (s : State) : Result := .next ((s.advance .rorb).unaryB ror8)

/-- LSLD: shift left, D (43_logic_bit_shift.md R354). -/
def execLsld (s : State) : Result := .next ((s.advance .lsld).unaryD lsl16)

/-- ASLD: shift left, D (43_logic_bit_shift.md R354). -/
def execAsld (s : State) : Result := .next ((s.advance .asld).unaryD lsl16)

/-- LSRD: logical shift right, D (43_logic_bit_shift.md R361). -/
def execLsrd (s : State) : Result := .next ((s.advance .lsrd).unaryD lsr16)

end Sys2Proof.Machine
end

