-- ==== Sys2Proof/Machine/Stack.lean ====
section
/-!
DEFINITION. Stack push and pull (spec/41_move_transfer_stack.md, sections 4 and 5).
One definition per instruction.
-/

namespace Sys2Proof.Machine

/-- PSHA: push A (41_move_transfer_stack.md R230). -/
def execPsha (s : State) : Result := .next ((s.advance .psha).push8 s.a)

/-- PSHB: push B (41_move_transfer_stack.md R231). -/
def execPshb (s : State) : Result := .next ((s.advance .pshb).push8 s.b)

/-- PSHC: push CCR, all eight bits as stored (41_move_transfer_stack.md R232). -/
def execPshc (s : State) : Result := .next ((s.advance .pshc).push8 s.ccr)

/-- PSHD: push D (41_move_transfer_stack.md R233). -/
def execPshd (s : State) : Result := .next ((s.advance .pshd).push16 s.d)

/-- PSHX: push X (41_move_transfer_stack.md R234). -/
def execPshx (s : State) : Result := .next ((s.advance .pshx).push16 s.x)

/-- PSHY: push Y (41_move_transfer_stack.md R235). -/
def execPshy (s : State) : Result := .next ((s.advance .pshy).push16 s.y)

/-- PULA: pull A (41_move_transfer_stack.md R236). -/
def execPula (s : State) : Result :=
  let p := (s.advance .pula).pull8
  .next { p.2 with a := p.1 }

/-- PULB: pull B (41_move_transfer_stack.md R237). -/
def execPulb (s : State) : Result :=
  let p := (s.advance .pulb).pull8
  .next { p.2 with b := p.1 }

/-- PULC: pull CCR under `WriteCCR` (41_move_transfer_stack.md R238). -/
def execPulc (s : State) : Result :=
  let p := (s.advance .pulc).pull8
  .next (p.2.setCcr (writeCcr s.ccr p.1))

/-- PULD: pull D (41_move_transfer_stack.md R239). -/
def execPuld (s : State) : Result :=
  let p := (s.advance .puld).pull16
  .next (p.2.setD p.1)

/-- PULX: pull X (41_move_transfer_stack.md R240). -/
def execPulx (s : State) : Result :=
  let p := (s.advance .pulx).pull16
  .next { p.2 with x := p.1 }

/-- PULY: pull Y (41_move_transfer_stack.md R241). -/
def execPuly (s : State) : Result :=
  let p := (s.advance .puly).pull16
  .next { p.2 with y := p.1 }

end Sys2Proof.Machine
end

