-- ==== Sys2Proof/Machine/System.lean ====
section
/-!
DEFINITION. SWI, TRAP, RTI, NOP, WAI, STOP and BGND (spec/47_system.md).
One definition per instruction.
-/

namespace Sys2Proof.Machine

/-- SWI: software interrupt (47_system.md R540). -/
def execSwi (s : State) : Result := .next ((s.advance .swi).takeException (s.advance .swi).pc s.cfg.vec.swi false)

/-- TRAP: unimplemented opcode trap; the number selects nothing (47_system.md R541). -/
def execTrap (tn : Byte) (s : State) : Result :=
  .next ((s.advance (.trap tn)).takeException (s.advance (.trap tn)).pc s.cfg.vec.trap false)

/-- RTI: return from interrupt (47_system.md R542). -/
def execRti (s : State) : Result := .next ((s.advance .rti).returnFromException)

/-- NOP: no operation (47_system.md R543). -/
def execNop (s : State) : Result := .next (s.advance .nop)

/-- WAI: stack the registers and wait for an interrupt (47_system.md R546). -/
def execWai (s : State) : Result :=
  let t := s.advance .wai
  .next { t.stackFrame t.pc with runState := .waiting }

/-- STOP: with S = 0 stack the registers and stop, with S = 1 do nothing (47_system.md R547). -/
def execStop (s : State) : Result :=
  let t := s.advance .stop
  if getFlag t.ccr .s then .next t else .next { t.stackFrame t.pc with runState := .stopped }

/-- BGND: enter background debug mode, or nothing where the debug system is not enabled (47_system.md R548). -/
def execBgnd (s : State) : Result :=
  let t := s.advance .bgnd
  if t.cfg.bdmEnabled then .next { t with runState := .background } else .next t

end Sys2Proof.Machine
end

