-- ==== Sys2Proof/Machine/Dispatch.lean ====
section
/-!
DEFINITION. The dispatch of an instruction to its meaning: one arm per constructor of `Instr`, in the order of
spec/opcode_table.json.
-/

namespace Sys2Proof.Machine

def exec (i : Instr) (s : State) : Host.Outcome State Fault Refusal :=
  match i with
  | .bgnd => Sys2Proof.Machine.execBgnd s
  | .mem => Sys2Proof.Machine.execMem s
  | .iny => Sys2Proof.Machine.execIny s
  | .dey => Sys2Proof.Machine.execDey s
  | .jmp m => Sys2Proof.Machine.execJmp m s
  | .bsr rel => Sys2Proof.Machine.execBsr rel s
  | .inx => Sys2Proof.Machine.execInx s
  | .dex => Sys2Proof.Machine.execDex s
  | .rtc => Sys2Proof.Machine.execRtc s
  | .rti => Sys2Proof.Machine.execRti s
  | .bset m mask => Sys2Proof.Machine.execBset m mask s
  | .bclr m mask => Sys2Proof.Machine.execBclr m mask s
  | .brset m mask rel => Sys2Proof.Machine.execBrset m mask rel s
  | .brclr m mask rel => Sys2Proof.Machine.execBrclr m mask rel s
  | .andcc imm => Sys2Proof.Machine.execAndcc imm s
  | .ediv => Sys2Proof.Machine.execEdiv s
  | .mul => Sys2Proof.Machine.execMul s
  | .emul => Sys2Proof.Machine.execEmul s
  | .orcc imm => Sys2Proof.Machine.execOrcc imm s
  | .jsr m => Sys2Proof.Machine.execJsr m s
  | .leay f => Sys2Proof.Machine.execLeay f s
  | .leax f => Sys2Proof.Machine.execLeax f s
  | .leas f => Sys2Proof.Machine.execLeas f s
  | .bra rel => Sys2Proof.Machine.execBra rel s
  | .brn rel => Sys2Proof.Machine.execBrn rel s
  | .bhi rel => Sys2Proof.Machine.execBhi rel s
  | .bls rel => Sys2Proof.Machine.execBls rel s
  | .bcc rel => Sys2Proof.Machine.execBcc rel s
  | .bhs rel => Sys2Proof.Machine.execBhs rel s
  | .bcs rel => Sys2Proof.Machine.execBcs rel s
  | .blo rel => Sys2Proof.Machine.execBlo rel s
  | .bne rel => Sys2Proof.Machine.execBne rel s
  | .beq rel => Sys2Proof.Machine.execBeq rel s
  | .bvc rel => Sys2Proof.Machine.execBvc rel s
  | .bvs rel => Sys2Proof.Machine.execBvs rel s
  | .bpl rel => Sys2Proof.Machine.execBpl rel s
  | .bmi rel => Sys2Proof.Machine.execBmi rel s
  | .bge rel => Sys2Proof.Machine.execBge rel s
  | .blt rel => Sys2Proof.Machine.execBlt rel s
  | .bgt rel => Sys2Proof.Machine.execBgt rel s
  | .ble rel => Sys2Proof.Machine.execBle rel s
  | .pulx => Sys2Proof.Machine.execPulx s
  | .puly => Sys2Proof.Machine.execPuly s
  | .pula => Sys2Proof.Machine.execPula s
  | .pulb => Sys2Proof.Machine.execPulb s
  | .pshx => Sys2Proof.Machine.execPshx s
  | .pshy => Sys2Proof.Machine.execPshy s
  | .psha => Sys2Proof.Machine.execPsha s
  | .pshb => Sys2Proof.Machine.execPshb s
  | .pulc => Sys2Proof.Machine.execPulc s
  | .pshc => Sys2Proof.Machine.execPshc s
  | .puld => Sys2Proof.Machine.execPuld s
  | .pshd => Sys2Proof.Machine.execPshd s
  | .wavr => Sys2Proof.Machine.execWavr s
  | .rts => Sys2Proof.Machine.execRts s
  | .wai => Sys2Proof.Machine.execWai s
  | .swi => Sys2Proof.Machine.execSwi s
  | .nega => Sys2Proof.Machine.execNega s
  | .coma => Sys2Proof.Machine.execComa s
  | .inca => Sys2Proof.Machine.execInca s
  | .deca => Sys2Proof.Machine.execDeca s
  | .lsra => Sys2Proof.Machine.execLsra s
  | .rola => Sys2Proof.Machine.execRola s
  | .rora => Sys2Proof.Machine.execRora s
  | .asra => Sys2Proof.Machine.execAsra s
  | .lsla => Sys2Proof.Machine.execLsla s
  | .asla => Sys2Proof.Machine.execAsla s
  | .lsrd => Sys2Proof.Machine.execLsrd s
  | .call t => Sys2Proof.Machine.execCall t s
  | .negb => Sys2Proof.Machine.execNegb s
  | .comb => Sys2Proof.Machine.execComb s
  | .incb => Sys2Proof.Machine.execIncb s
  | .decb => Sys2Proof.Machine.execDecb s
  | .lsrb => Sys2Proof.Machine.execLsrb s
  | .rolb => Sys2Proof.Machine.execRolb s
  | .rorb => Sys2Proof.Machine.execRorb s
  | .asrb => Sys2Proof.Machine.execAsrb s
  | .lslb => Sys2Proof.Machine.execLslb s
  | .aslb => Sys2Proof.Machine.execAslb s
  | .lsld => Sys2Proof.Machine.execLsld s
  | .asld => Sys2Proof.Machine.execAsld s
  | .staa m => Sys2Proof.Machine.execStaa m s
  | .stab m => Sys2Proof.Machine.execStab m s
  | .std m => Sys2Proof.Machine.execStd m s
  | .sty m => Sys2Proof.Machine.execSty m s
  | .stx m => Sys2Proof.Machine.execStx m s
  | .sts m => Sys2Proof.Machine.execSts m s
  | .neg m => Sys2Proof.Machine.execNeg m s
  | .com m => Sys2Proof.Machine.execCom m s
  | .inc m => Sys2Proof.Machine.execInc m s
  | .dec m => Sys2Proof.Machine.execDec m s
  | .lsr m => Sys2Proof.Machine.execLsr m s
  | .rol m => Sys2Proof.Machine.execRol m s
  | .ror m => Sys2Proof.Machine.execRor m s
  | .asr m => Sys2Proof.Machine.execAsr m s
  | .lsl m => Sys2Proof.Machine.execLsl m s
  | .asl m => Sys2Proof.Machine.execAsl m s
  | .clr m => Sys2Proof.Machine.execClr m s
  | .suba o => Sys2Proof.Machine.execSuba o s
  | .cmpa o => Sys2Proof.Machine.execCmpa o s
  | .sbca o => Sys2Proof.Machine.execSbca o s
  | .subd o => Sys2Proof.Machine.execSubd o s
  | .anda o => Sys2Proof.Machine.execAnda o s
  | .bita o => Sys2Proof.Machine.execBita o s
  | .ldaa o => Sys2Proof.Machine.execLdaa o s
  | .clra => Sys2Proof.Machine.execClra s
  | .eora o => Sys2Proof.Machine.execEora o s
  | .adca o => Sys2Proof.Machine.execAdca o s
  | .oraa o => Sys2Proof.Machine.execOraa o s
  | .adda o => Sys2Proof.Machine.execAdda o s
  | .cpd o => Sys2Proof.Machine.execCpd o s
  | .cpy o => Sys2Proof.Machine.execCpy o s
  | .cpx o => Sys2Proof.Machine.execCpx o s
  | .cps o => Sys2Proof.Machine.execCps o s
  | .tsta => Sys2Proof.Machine.execTsta s
  | .nop => Sys2Proof.Machine.execNop s
  | .subb o => Sys2Proof.Machine.execSubb o s
  | .cmpb o => Sys2Proof.Machine.execCmpb o s
  | .sbcb o => Sys2Proof.Machine.execSbcb o s
  | .addd o => Sys2Proof.Machine.execAddd o s
  | .andb o => Sys2Proof.Machine.execAndb o s
  | .bitb o => Sys2Proof.Machine.execBitb o s
  | .ldab o => Sys2Proof.Machine.execLdab o s
  | .clrb => Sys2Proof.Machine.execClrb s
  | .eorb o => Sys2Proof.Machine.execEorb o s
  | .adcb o => Sys2Proof.Machine.execAdcb o s
  | .orab o => Sys2Proof.Machine.execOrab o s
  | .addb o => Sys2Proof.Machine.execAddb o s
  | .ldd o => Sys2Proof.Machine.execLdd o s
  | .ldy o => Sys2Proof.Machine.execLdy o s
  | .ldx o => Sys2Proof.Machine.execLdx o s
  | .lds o => Sys2Proof.Machine.execLds o s
  | .tstb => Sys2Proof.Machine.execTstb s
  | .tst m => Sys2Proof.Machine.execTst m s
  | .dbeq r off => Sys2Proof.Machine.execDbeq r off s
  | .dbne r off => Sys2Proof.Machine.execDbne r off s
  | .tbeq r off => Sys2Proof.Machine.execTbeq r off s
  | .tbne r off => Sys2Proof.Machine.execTbne r off s
  | .ibeq r off => Sys2Proof.Machine.execIbeq r off s
  | .ibne r off => Sys2Proof.Machine.execIbne r off s
  | .tfr r1 r2 => Sys2Proof.Machine.execTfr r1 r2 s
  | .exg r1 r2 => Sys2Proof.Machine.execExg r1 r2 s
  | .sex r1 r2 => Sys2Proof.Machine.execSex r1 r2 s
  | .tap => Sys2Proof.Machine.execTap s
  | .tpa => Sys2Proof.Machine.execTpa s
  | .tsx => Sys2Proof.Machine.execTsx s
  | .tsy => Sys2Proof.Machine.execTsy s
  | .txs => Sys2Proof.Machine.execTxs s
  | .tys => Sys2Proof.Machine.execTys s
  | .xgdx => Sys2Proof.Machine.execXgdx s
  | .xgdy => Sys2Proof.Machine.execXgdy s
  | .abx => Sys2Proof.Machine.execAbx s
  | .aby => Sys2Proof.Machine.execAby s
  | .des => Sys2Proof.Machine.execDes s
  | .ins => Sys2Proof.Machine.execIns s
  | .clc => Sys2Proof.Machine.execClc s
  | .cli => Sys2Proof.Machine.execCli s
  | .clv => Sys2Proof.Machine.execClv s
  | .sec => Sys2Proof.Machine.execSec s
  | .sei => Sys2Proof.Machine.execSei s
  | .sev => Sys2Proof.Machine.execSev s
  | .movw src dst => Sys2Proof.Machine.execMovw src dst s
  | .movb src dst => Sys2Proof.Machine.execMovb src dst s
  | .aba => Sys2Proof.Machine.execAba s
  | .daa => Sys2Proof.Machine.execDaa s
  | .tab => Sys2Proof.Machine.execTab s
  | .tba => Sys2Proof.Machine.execTba s
  | .idiv => Sys2Proof.Machine.execIdiv s
  | .fdiv => Sys2Proof.Machine.execFdiv s
  | .emuls => Sys2Proof.Machine.execEmuls s
  | .edivs => Sys2Proof.Machine.execEdivs s
  | .idivs => Sys2Proof.Machine.execIdivs s
  | .sba => Sys2Proof.Machine.execSba s
  | .cba => Sys2Proof.Machine.execCba s
  | .rev => Sys2Proof.Machine.execRev s
  | .revw => Sys2Proof.Machine.execRevw s
  | .wav => Sys2Proof.Machine.execWav s
  | .stop => Sys2Proof.Machine.execStop s
  | .emacs addr => Sys2Proof.Machine.execEmacs addr s
  | .maxa f => Sys2Proof.Machine.execMaxa f s
  | .mina f => Sys2Proof.Machine.execMina f s
  | .emaxd f => Sys2Proof.Machine.execEmaxd f s
  | .emind f => Sys2Proof.Machine.execEmind f s
  | .maxm f => Sys2Proof.Machine.execMaxm f s
  | .minm f => Sys2Proof.Machine.execMinm f s
  | .emaxm f => Sys2Proof.Machine.execEmaxm f s
  | .eminm f => Sys2Proof.Machine.execEminm f s
  | .tbl f => Sys2Proof.Machine.execTbl f s
  | .etbl f => Sys2Proof.Machine.execEtbl f s
  | .lbra rel => Sys2Proof.Machine.execLbra rel s
  | .lbrn rel => Sys2Proof.Machine.execLbrn rel s
  | .lbhi rel => Sys2Proof.Machine.execLbhi rel s
  | .lbls rel => Sys2Proof.Machine.execLbls rel s
  | .lbcc rel => Sys2Proof.Machine.execLbcc rel s
  | .lbhs rel => Sys2Proof.Machine.execLbhs rel s
  | .lbcs rel => Sys2Proof.Machine.execLbcs rel s
  | .lblo rel => Sys2Proof.Machine.execLblo rel s
  | .lbne rel => Sys2Proof.Machine.execLbne rel s
  | .lbeq rel => Sys2Proof.Machine.execLbeq rel s
  | .lbvc rel => Sys2Proof.Machine.execLbvc rel s
  | .lbvs rel => Sys2Proof.Machine.execLbvs rel s
  | .lbpl rel => Sys2Proof.Machine.execLbpl rel s
  | .lbmi rel => Sys2Proof.Machine.execLbmi rel s
  | .lbge rel => Sys2Proof.Machine.execLbge rel s
  | .lblt rel => Sys2Proof.Machine.execLblt rel s
  | .lbgt rel => Sys2Proof.Machine.execLbgt rel s
  | .lble rel => Sys2Proof.Machine.execLble rel s
  | .trap tn => Sys2Proof.Machine.execTrap tn s

end Sys2Proof.Machine
end

