-- ==== Sys2Proof/Machine/Cycle.lean ====
section
/-!
DEFINITION. One step of the CPU (spec/60_exceptions.md R574, spec/30_encoding.md R111): look at the requests, choose the
work (take a request, wait, go on with an unfinished rule evaluation, or fetch and decode an instruction), and do it.
-/

namespace Sys2Proof.Machine

/-! ## The instruction queue, 20_memory.md R100 to R102 -/

/-- The byte of address `a` that the queue holds. -/
def State.queued (s : State) (a : Word) : Option Byte := (s.queue.find? fun c => c.1 == a.toNat).map Prod.snd

/-- The program word at the even address `a`: the queue's, else a read of the whole aligned word (R100, the P cycle). -/
def State.programWord (s : State) (a : Word) : List Host.Cell × State :=
  match s.queued a, s.queued (a + 1) with
  | some hi, some lo => ([(a.toNat, hi), ((a + 1).toNat, lo)], s)
  | _, _ =>
    let w := s.read16 a
    ([(a.toNat, w.1.extractLsb' 8 8), ((a + 1).toNat, w.1.extractLsb' 0 8)], w.2)

/-- `n` program words from the even address `a` on, wrapping at the top of the space (R86, D26). -/
def State.programWords : Nat → State → Word → List Host.Cell × State
  | 0, s, _ => ([], s)
  | n + 1, s, a =>
    let w := s.programWord a
    let rest := State.programWords n w.2 (a + 2)
    (w.1 ++ rest.1, rest.2)

/-- The address of the aligned word that holds the byte at PC (R100: `target AND $FFFE`). -/
def State.queueBase (s : State) : Word := s.pc &&& 0xFFFE

/-- Bring the queue up to three aligned words from PC on (R100): after a change of flow all three are read, after any other
instruction the words in place of those it consumed (log entry 37). -/
def State.readAhead (s : State) : State :=
  let w := State.programWords 3 s s.queueBase
  { w.2 with queue := w.1 }

/-! ## Fetching -/

/-- The values the byte at `a` had before stores made since the last change of flow. -/
def State.staleValues (s : State) (a : Word) : List Byte :=
  (s.stale.filter fun c => c.1 == a.toNat).map Prod.snd

/-- `Fetch8` (00_scope.md R9) of a byte in the queue: where its address was stored to since the last change of flow, an
old value or the new one, which of them is a free choice (20_memory.md R101, U18; log entry 8). -/
def State.fetch8 (s : State) (c : Host.Cell) : Byte × State :=
  match s.staleValues (BitVec.ofNat 16 c.1) with
  | [] => (c.2, s)
  | old :: older =>
    let now := s.read8 (BitVec.ofNat 16 c.1)
    let choices := c.2 :: now.1 :: old :: older
    (choices.getD (Config.freeIndex now.2.draws % choices.length) now.1, { now.2 with draws := now.2.draws + 1 })

/-- The bytes of a part of the queue. -/
def State.fetchCells : State → List Host.Cell → List Byte × State
  | s, [] => ([], s)
  | s, c :: cells =>
    let b := s.fetch8 c
    let rest := b.2.fetchCells cells
    (b.1 :: rest.1, rest.2)

/-- The bytes at PC that the queue holds: six from an even PC, five from an odd one. -/
def State.fetchQueue (s : State) : List Byte × State := s.fetchCells (s.queue.drop (s.pc.toNat % 2))

/-- The instruction bytes at PC: the queue's three words, and the fourth word where an instruction at an odd PC needs its
sixth byte (30_encoding.md R110: no instruction is longer; 20_memory.md R100). -/
def State.fetch (s : State) : List Byte × State :=
  let f := s.readAhead.fetchQueue
  match decode f.1 with
  | .bad .truncated =>
    let w := f.2.programWord (s.queueBase + 6)
    let g := { w.2 with queue := f.2.queue ++ w.1 }.fetchCells w.1
    (f.1 ++ g.1, g.2)
  | _ => f

/-! ## The step -/

/-- What the CPU does between one sampling point and the next. -/
inductive Work where
  /-- Take a request (60_exceptions.md R566, R580). -/
  | event (e : Event)
  /-- Stay Waiting or Stopped (R580). -/
  | wait
  /-- Background, which no step leaves without a reset (47_system.md R548, D15). -/
  | halted
  /-- Go on with a rule evaluation that one step did not finish (log entry 9). -/
  | goOn (k : Progress)
  /-- Execute an instruction. -/
  | run (i : Instr)
  /-- The bytes at PC are a reserved encoding (U4, U5, U6). -/
  | reserved (e : DecodeError)
  deriving DecidableEq, Repr

/-- Fetch and decode the instruction at PC (30_encoding.md R111). -/
def State.fetchWork (s : State) : Work × State :=
  let f := s.fetch
  match decode f.1 with
  | .ok i _ => (.run i, f.2)
  | .bad e => (.reserved e, f.2)

/-- What the CPU does when no request is taken (10_state.md R39, 60_exceptions.md R580). -/
def State.quietWork (s : State) : Work × State :=
  match s.runState with
  | .waiting => (.wait, s)
  | .stopped => (.wait, s)
  | .background => (.halted, s)
  | .running =>
    match s.progress with
    | some k => (.goOn k, { s with progress := none })
    | none => s.fetchWork

/-- The work that the requests seen at a sampling point leave the CPU with (60_exceptions.md R574). -/
def State.work (s : State) (r : Requests) : Work × State :=
  match s.eventOf r with
  | some e => (.event e, s)
  | none => s.quietWork

/-- After work that moved PC the queue is brought up to three words again (20_memory.md R100). -/
def settle (r : Result) : Result :=
  match r with
  | .next t => .next t.readAhead
  | .fault f => .fault f
  | .refused e => .refused e

/-- Do the work. -/
def State.perform (s : State) (w : Work) : Result :=
  match w with
  | .event e => settle (.next (s.takeEvent e))
  | .wait => .next s
  | .halted => .fault .background
  | .goOn .rev => settle (exec .rev s)
  | .goOn .revw => settle (exec .revw s)
  | .run i => settle (exec i s)
  | .reserved e => .refused (.reserved e)

/-- The work is cut off by a reset (70_reset_and_hazards.md R611; log entry 14): from whatever it would have led to, the
reset sequence runs; what has no meaning without the reset has none with it. -/
def State.performCut (s : State) (w : Work) (c : ResetCause) : Result :=
  match s.forgetStores.perform w with
  | .next t => settle (.next (s.cutOff c t))
  | .fault _ => settle (.next (s.takeEvent (.reset (s.resetVector c))))
  | .refused e => .refused e

/-- One step: the sampling point comes first (60_exceptions.md R574). -/
def State.cycle (s : State) : Result :=
  let q := s.sample
  let w := q.2.work q.1
  match q.1.cutBy with
  | none => w.2.perform w.1
  | some c => w.2.performCut w.1 c

/-! ## The host's load -/

/-- Store bytes from address `a` on, as a load from outside does: nothing becomes stale. -/
def loadBytes : Memory → Word → List Byte → Memory
  | m, _, [] => m
  | m, a, b :: rest => loadBytes (Memory.write m a.toNat b) (a + 1) rest

end Sys2Proof.Machine
end

