-- ==== Sys2Proof/Machine/Step.lean ====
section
/-!
DEFINITION. The step of the machine, and the state the host asks about: an instruction stored where the next step fetches.
-/

namespace Sys2Proof.Machine

/-- One step (`State.cycle`). -/
def step (s : State) : Host.Outcome State Fault Refusal := Sys2Proof.Machine.State.cycle s

/-- `s` with the instruction of bits `w` stored at PC, and with what else a fetch there needs: the CPU runs, no rule
evaluation is unfinished, no request comes first, the queue is empty and no byte is stale (log entry 3). -/
def State.withFetchWord (s : State) (nbits w : Nat) : State :=
  { s with
    mem := loadBytes s.mem s.pc (tableBytes nbits w)
    runState := .running
    progress := none
    ruleStores := []
    requests := []
    queue := []
    stale := [] }

end Sys2Proof.Machine
end

