-- ==== Sys2Proof/Safety.lean ====
section
/-!
DEFINITION. The words the statements use: what a program can see of a state (registers, flags, the byte at an address),
what an instruction may change (`Effect`), the invariant of the machine, and the rules of the instruction families
written over integers and single bits, as spec/ writes them.
-/

namespace Sys2Proof.Machine

/-! ## What can be seen -/

/-- The registers beside PC, CCR and PPAGE (10_state.md R20); D is A and B. -/
inductive RegName where
  | a
  | b
  | x
  | y
  | sp
  deriving DecidableEq, Repr

/-- The value of a register, 8-bit ones zero-extended. -/
def State.reg (s : State) : RegName → Word
  | .a => s.a.zeroExtend 16
  | .b => s.b.zeroExtend 16
  | .x => s.x
  | .y => s.y
  | .sp => s.sp

/-- The byte that address `a` holds: PPAGE where it is mapped, else the byte of memory. -/
def State.peek (s : State) (a : Word) : Byte :=
  if s.cfg.ppageAddr = some a then s.ppage else Memory.read s.mem a.toNat

/-- The big-endian word at `a` (20_memory.md R82). -/
def State.peek16 (s : State) (a : Word) : Word := s.peek a ++ s.peek (a + 1)

/-- Does a store to `a` change what `a` holds? -/
def State.writable (s : State) (a : Word) : Bool :=
  decide (s.cfg.ppageAddr = some a) || s.kindAt a == .ram

/-- Does a read of `a` answer the byte that `a` holds? -/
def State.plain (s : State) (a : Word) : Bool :=
  decide (s.cfg.ppageAddr = some a) || s.kindAt a == .ram || s.kindAt a == .rom

/-- What address `x` holds after the byte stores of the list, the latest one first. -/
def State.overlay (s : State) : List (Word × Byte) → Word → Byte
  | [], x => s.peek x
  | (a, v) :: earlier, x => if x = a ∧ s.writable a = true then v else s.overlay earlier x

/-- The two byte stores of a word, the latest one first (D3). -/
def wordStores (a v : Word) : List (Word × Byte) := [(a + 1, v.extractLsb' 0 8), (a, v.extractLsb' 8 8)]

/-- The address after the last byte of `i` at PC (00_scope.md R11). -/
def State.pcNext (s : State) (i : Instr) : Word := s.pc + BitVec.ofNat 16 i.length

/-! ## Frames -/

/-- From `s` to `t`, nothing changes but the listed registers, the listed flags and the listed byte stores; PC and, where
PPAGE is mapped at a stored address, PPAGE. Where there are stores, memory is taken to be in its canonical form, which
every step keeps (`Inv`). -/
structure Effect (s t : State) (regs : List RegName) (flags : List Flag) (stores : List (Word × Byte)) : Prop where
  registers : ∀ r, r ∉ regs → t.reg r = s.reg r
  flagBits : ∀ f, f ∉ flags → getFlag t.ccr f = getFlag s.ccr f
  memory : stores = [] ∨ Memory.wf s.mem = true → ∀ x, t.peek x = s.overlay stores x
  page : (∀ c ∈ stores, s.cfg.ppageAddr ≠ some c.1) → t.ppage = s.ppage
  run : t.runState = s.runState
  progress : t.progress = s.progress
  requests : t.requests = s.requests
  config : t.cfg = s.cfg

/-- `i` answers a next state with PC after it and at most the listed changes, and `post` holds of that state. -/
def Completes (i : Instr) (s : State) (regs : List RegName) (flags : List Flag) (stores : List (Word × Byte))
    (post : State → Prop) : Prop :=
  ∃ t, exec i s = .next t ∧ t.pc = s.pcNext i ∧ Effect s t regs flags stores ∧ post t

/-- `i` completes as `Completes` says, with a memory operand: the registers of `data` are the result's, those of `auto` are
at most changed by the automatic modification, and every register outside `data` holds what the operand access left in it
(`u`), so that an auto-modified base holds base plus step (30_encoding.md R122). -/
def CompletesVia (i : Instr) (s u : State) (data auto : List RegName) (flags : List Flag) (stores : List (Word × Byte))
    (post : State → Prop) : Prop :=
  Completes i s (data ++ auto) flags stores fun t => (∀ r, r ∉ data → t.reg r = u.reg r) ∧ post t

/-- The register an automatic form changes. -/
def autoName : AutoBase → RegName
  | .x => .x
  | .y => .y
  | .sp => .sp

/-- The registers that an indexed form changes (30_encoding.md R122). -/
def shortAuto : IdxShort → List RegName
  | .pre r _ => [autoName r]
  | .post r _ => [autoName r]
  | .const5 _ _ => []
  | .acc _ _ => []

/-- The same for a form without indirection. -/
def directAuto : IdxDirect → List RegName
  | .short f => shortAuto f
  | .const9 _ _ => []
  | .const16 _ _ => []

/-- The same for any indexed form. -/
def fullAuto : IdxFull → List RegName
  | .direct f => directAuto f
  | .indD _ => []
  | .ind16 _ _ => []

/-- The same for a memory operand. -/
def memAuto : MemOperand → List RegName
  | .dir _ => []
  | .ext _ => []
  | .idx f => fullAuto f

/-- The same for an 8-bit operand. -/
def auto8 : Operand8 → List RegName
  | .imm _ => []
  | .mem m => memAuto m

/-- The same for a 16-bit operand. -/
def auto16 : Operand16 → List RegName
  | .imm _ => []
  | .mem m => memAuto m

/-- The same for a read-modify-write operand. -/
def rmwAuto : RmwOperand → List RegName
  | .ext _ => []
  | .idx f => fullAuto f

/-- The same for a bit operand. -/
def bitAuto : BitOperand → List RegName
  | .dir _ => []
  | .ext _ => []
  | .idx f => directAuto f

/-- The same for the source of MOVB. -/
def source8Auto : MoveSource8 → List RegName
  | .imm _ => []
  | .ext _ => []
  | .idx f => shortAuto f

/-- The same for the source of MOVW. -/
def source16Auto : MoveSource16 → List RegName
  | .imm _ => []
  | .ext _ => []
  | .idx f => shortAuto f

/-- The same for the destination of a move. -/
def destAuto : MoveDest → List RegName
  | .ext _ => []
  | .idx f => shortAuto f

/-! ## The invariant -/

/-- What every step keeps: memory is in its canonical form, the queue is empty or holds the three aligned words from PC on
(20_memory.md R100), the stale bytes are bytes of the address space, and a rule evaluation is unfinished, with its stores
on record, only while the CPU runs. -/
structure Inv (s : State) : Prop where
  memory : Memory.wf s.mem = true
  queueAhead : s.queue = [] ∨
    s.queue.map Prod.fst = (List.range 6).map fun k => (s.queueBase + BitVec.ofNat 16 k).toNat
  staleInSpace : ∀ c ∈ s.stale, c.1 < 65536
  progressRuns : s.progress ≠ none → s.runState = .running
  ruleStoresRun : s.progress = none → s.ruleStores = []

/-! ## Flags as the rules name them -/

/-- N and Z of a byte, and the given V (10_state.md R45). -/
structure FlagsNZV8 (t : State) (r : Byte) (v : Bool) : Prop where
  n : getFlag t.ccr .n = r.getLsbD 7
  z : getFlag t.ccr .z = decide (r = 0)
  v : getFlag t.ccr .v = v

/-- N and Z of a word, and the given V (10_state.md R45). -/
structure FlagsNZV16 (t : State) (r : Word) (v : Bool) : Prop where
  n : getFlag t.ccr .n = r.getLsbD 15
  z : getFlag t.ccr .z = decide (r = 0)
  v : getFlag t.ccr .v = v

/-- The flags of the sum `r` of `a` and `m`, as the Boolean forms of 10_state.md R47 give them. -/
structure AddFlags8 (t : State) (a m r : Byte) : Prop where
  nzv : FlagsNZV8 t r ((a.getLsbD 7 && m.getLsbD 7 && !r.getLsbD 7) || (!a.getLsbD 7 && !m.getLsbD 7 && r.getLsbD 7))
  c : getFlag t.ccr .c =
    ((a.getLsbD 7 && m.getLsbD 7) || (m.getLsbD 7 && !r.getLsbD 7) || (!r.getLsbD 7 && a.getLsbD 7))
  h : getFlag t.ccr .h =
    ((a.getLsbD 3 && m.getLsbD 3) || (m.getLsbD 3 && !r.getLsbD 3) || (!r.getLsbD 3 && a.getLsbD 3))

/-- The flags of the difference `r` of `a` and `m`, as the Boolean forms of 10_state.md R49 give them. -/
structure SubFlags8 (t : State) (a m r : Byte) : Prop where
  nzv : FlagsNZV8 t r ((a.getLsbD 7 && !m.getLsbD 7 && !r.getLsbD 7) || (!a.getLsbD 7 && m.getLsbD 7 && r.getLsbD 7))
  c : getFlag t.ccr .c =
    ((!a.getLsbD 7 && m.getLsbD 7) || (m.getLsbD 7 && r.getLsbD 7) || (r.getLsbD 7 && !a.getLsbD 7))

/-- The flags of the 16-bit difference `r` of `a` and `m` (10_state.md R50). -/
structure SubFlags16 (t : State) (a m r : Word) : Prop where
  nzv : FlagsNZV16 t r (decide (a.toInt - m.toInt < -32768 ∨ 32767 < a.toInt - m.toInt))
  c : getFlag t.ccr .c = decide (a.toNat < m.toNat)

/-! ## Rules of instruction families -/

/-- The accumulators. -/
inductive Acc where
  | a
  | b
  deriving DecidableEq, Repr

/-- The value of an accumulator. -/
def State.acc (s : State) : Acc → Byte
  | .a => s.a
  | .b => s.b

/-- The register that an accumulator is. -/
def Acc.name : Acc → RegName
  | .a => .a
  | .b => .b

/-- The operand that `i` reads in `s` (40_load_store_lea.md R160). -/
def State.fetched8 (s : State) (i : Instr) (o : Operand8) : Byte := ((s.advance i).operand8 o).1

/-- The word operand that `i` reads in `s`. -/
def State.fetched16 (s : State) (i : Instr) (o : Operand16) : Word := ((s.advance i).operand16 o).1

/-- `i` loads `r` with its operand and sets the flags of a load (40_load_store_lea.md R162). -/
def LoadRule8 (make : Operand8 → Instr) (r : Acc) : Prop :=
  ∀ o s, CompletesVia (make o) s ((s.advance (make o)).operand8 o).2 [r.name] (auto8 o) [.n, .z, .v] [] fun t =>
    t.acc r = s.fetched8 (make o) o ∧ FlagsNZV8 t (s.fetched8 (make o) o) false

/-- `i` loads the 16-bit register `value` reads, named by `regs` (40_load_store_lea.md R164 to R167). -/
def LoadRule16 (make : Operand16 → Instr) (regs : List RegName) (value : State → Word) : Prop :=
  ∀ o s, CompletesVia (make o) s ((s.advance (make o)).operand16 o).2 regs (auto16 o) [.n, .z, .v] [] fun t =>
    value t = s.fetched16 (make o) o ∧ FlagsNZV16 t (s.fetched16 (make o) o) false

/-- A byte store (40_load_store_lea.md R168): one byte at the effective address, nothing else in memory. -/
def StoreRule8 (make : MemOperand → Instr) (value : State → Byte) : Prop :=
  ∀ m s,
    let p := (s.advance (make m)).eaMem m
    CompletesVia (make m) s p.2 [] (memAuto m) [.n, .z, .v] [(p.1, value s)] fun t => FlagsNZV8 t (value s) false

/-- A word store (40_load_store_lea.md R170 to R173): the two bytes at the effective address; the register is read after
an automatic modification (30_encoding.md R130). -/
def StoreRule16 (make : MemOperand → Instr) (value : State → Word) : Prop :=
  ∀ m s,
    let p := (s.advance (make m)).eaMem m
    CompletesVia (make m) s p.2 [] (memAuto m) [.n, .z, .v] (wordStores p.1 (value p.2)) fun t =>
      FlagsNZV16 t (value p.2) false

/-- A load of an effective address (40_load_store_lea.md R174 to R176) in every form but the post forms on the
destination itself, which are refused. -/
def LeaRule (make : IdxDirect → Instr) (own : AutoBase) : Prop :=
  ∀ f s,
    if leaPostOwn f own = true then exec (make f) s = .refused .leaPostOwnBase
    else CompletesVia (make f) s ((s.advance (make f)).eaDirect f).2 [autoName own] (directAuto f) [] [] fun t =>
      t.reg (autoName own) = ((s.advance (make f)).eaDirect f).1

/-- An 8-bit addition with the carry-in `cin` (42_arithmetic.md R252 to R255). -/
def AddRule8 (make : Operand8 → Instr) (r : Acc) (cin : State → Bool) : Prop :=
  ∀ o s,
    let m := s.fetched8 (make o) o
    CompletesVia (make o) s ((s.advance (make o)).operand8 o).2 [r.name] (auto8 o) [.h, .n, .z, .v, .c] [] fun t =>
      (t.acc r).toNat = ((s.acc r).toNat + m.toNat + (cin s).toNat) % 256 ∧ AddFlags8 t (s.acc r) m (t.acc r)

/-- An 8-bit subtraction with the borrow-in `bin` (42_arithmetic.md R258 to R261). -/
def SubRule8 (make : Operand8 → Instr) (r : Acc) (bin : State → Bool) : Prop :=
  ∀ o s,
    let m := s.fetched8 (make o) o
    CompletesVia (make o) s ((s.advance (make o)).operand8 o).2 [r.name] (auto8 o) [.n, .z, .v, .c] [] fun t =>
      (t.acc r).toNat = ((s.acc r).toNat + 512 - m.toNat - (bin s).toNat) % 256 ∧
        SubFlags8 t (s.acc r) m (t.acc r)

/-- An 8-bit compare (42_arithmetic.md R264, R265): the flags of the difference, which goes nowhere. -/
def CompareRule8 (make : Operand8 → Instr) (r : Acc) : Prop :=
  ∀ o s,
    let m := s.fetched8 (make o) o
    CompletesVia (make o) s ((s.advance (make o)).operand8 o).2 [] (auto8 o) [.n, .z, .v, .c] [] fun t =>
      SubFlags8 t (s.acc r) m (s.acc r - m)

/-- A 16-bit compare (42_arithmetic.md R266 to R269); the register is read after the operand access. -/
def CompareRule16 (make : Operand16 → Instr) (value : State → Word) : Prop :=
  ∀ o s,
    let p := (s.advance (make o)).operand16 o
    CompletesVia (make o) s p.2 [] (auto16 o) [.n, .z, .v, .c] [] fun t =>
      SubFlags16 t (value p.2) p.1 (value p.2 - p.1)

/-- A logic instruction, given bit by bit (43_logic_bit_shift.md R320 to R325). -/
def LogicRule (make : Operand8 → Instr) (r : Acc) (op : Bool → Bool → Bool) : Prop :=
  ∀ o s,
    let m := s.fetched8 (make o) o
    CompletesVia (make o) s ((s.advance (make o)).operand8 o).2 [r.name] (auto8 o) [.n, .z, .v] [] fun t =>
      (∀ k < 8, (t.acc r).getLsbD k = op ((s.acc r).getLsbD k) (m.getLsbD k)) ∧ FlagsNZV8 t (t.acc r) false

/-- A bit test (43_logic_bit_shift.md R326, R327). -/
def BitTestRule (make : Operand8 → Instr) (r : Acc) : Prop :=
  ∀ o s,
    let m := s.fetched8 (make o) o
    CompletesVia (make o) s ((s.advance (make o)).operand8 o).2 [] (auto8 o) [.n, .z, .v] [] fun t =>
      FlagsNZV8 t (s.acc r &&& m) false

/-- What a one-operand instruction does to a byte: the result and the new V and C from the operand, the result and the
old C. -/
structure UnaryOp where
  result : Byte → Bool → Byte
  v : Byte → Byte → Bool
  c : Byte → Bool → Bool

/-- A one-operand instruction on memory (42_arithmetic.md R250): one byte, read at the effective address, is written
back there. -/
def UnaryMemRule (make : RmwOperand → Instr) (op : UnaryOp) : Prop :=
  ∀ m s,
    let p := (s.advance (make m)).eaRmw m
    let v := (p.2.read8 p.1).1
    let c := getFlag s.ccr .c
    let r := op.result v c
    CompletesVia (make m) s p.2 [] (rmwAuto m) [.n, .z, .v, .c] [(p.1, r)] fun t =>
      FlagsNZV8 t r (op.v v r) ∧ getFlag t.ccr .c = op.c v c

/-- A one-operand instruction on an accumulator. -/
def UnaryAccRule (i : Instr) (r : Acc) (op : UnaryOp) : Prop :=
  ∀ s,
    let v := s.acc r
    let c := getFlag s.ccr .c
    Completes i s [r.name] [.n, .z, .v, .c] [] fun t =>
      t.acc r = op.result v c ∧ FlagsNZV8 t (op.result v c) (op.v v (op.result v c)) ∧ getFlag t.ccr .c = op.c v c

/-- The three forms of a one-operand instruction. -/
def UnaryRule (make : RmwOperand → Instr) (onA onB : Instr) (op : UnaryOp) : Prop :=
  UnaryMemRule make op ∧ UnaryAccRule onA .a op ∧ UnaryAccRule onB .b op

/-- INC: V tells an operand of $7F, C is kept (10_state.md R52). -/
def incOp : UnaryOp where
  result m _ := BitVec.ofNat 8 (m.toNat + 1)
  v m _ := decide (m.toNat = 127)
  c _ k := k

/-- DEC: V tells an operand of $80, C is kept (10_state.md R52). -/
def decOp : UnaryOp where
  result m _ := BitVec.ofNat 8 (m.toNat + 255)
  v m _ := decide (m.toNat = 128)
  c _ k := k

/-- NEG (10_state.md R53). -/
def negOp : UnaryOp where
  result m _ := BitVec.ofNat 8 (256 - m.toNat)
  v _ r := decide (r.toNat = 128)
  c m _ := decide (m.toNat ≠ 0)

/-- COM: V cleared, C set (10_state.md R53). -/
def comOp : UnaryOp where
  result m _ := BitVec.ofNat 8 (255 - m.toNat)
  v _ _ := false
  c _ _ := true

/-- A shift or rotate to the left: the bit `inBit` enters at bit 0, bit 7 leaves into C, V is N XOR C
(43_logic_bit_shift.md R350, 10_state.md R51). -/
def leftOp (inBit : Bool → Bool) : UnaryOp where
  result m k := BitVec.ofNat 8 (2 * m.toNat + (inBit k).toNat)
  v m r := r.getLsbD 7 != m.getLsbD 7
  c m _ := m.getLsbD 7

/-- A shift or rotate to the right: the bit `inBit` enters at bit 7, bit 0 leaves into C, V is N XOR C
(43_logic_bit_shift.md R350, 10_state.md R51). -/
def rightOp (inBit : Byte → Bool → Bool) : UnaryOp where
  result m k := BitVec.ofNat 8 (m.toNat / 2 + 128 * (inBit m k).toNat)
  v m r := r.getLsbD 7 != m.getLsbD 0
  c m _ := m.getLsbD 0

/-- A branch that tests CCR (45_branch_jump_call.md R440): nothing changes but PC. -/
def BranchRule (i : Instr) (taken : State → Bool) (off : Word) : Prop :=
  ∀ s, ∃ t, exec i s = .next t ∧
    t.pc = (if taken s = true then s.pcNext i + off else s.pcNext i) ∧ Effect s t [] [] []

/-- The flag C of a state, as the tests of 45_branch_jump_call.md R440 read it. -/
def State.flagC (s : State) : Bool := getFlag s.ccr .c
/-- The flag Z of a state. -/
def State.flagZ (s : State) : Bool := getFlag s.ccr .z
/-- The flag N of a state. -/
def State.flagN (s : State) : Bool := getFlag s.ccr .n
/-- The flag V of a state. -/
def State.flagV (s : State) : Bool := getFlag s.ccr .v

/-- A loop primitive (45_branch_jump_call.md R485 to R491): the counter moves by `k`, and the branch is taken on its
being zero, or on its not being zero. -/
def LoopRule (make : LoopReg → BitVec 9 → Instr) (k : Int) (onZero : Bool) : Prop :=
  ∀ r off s, ∃ t, exec (make r off) s = .next t ∧
    Effect s t (loopNames r) [] [] ∧
    loopValue t r = (loopValue s r + k) % loopModulus r ∧
    t.pc =
      (if decide (loopValue t r = 0) = onZero then s.pcNext (make r off) + off.signExtend 16
        else s.pcNext (make r off))
where
  /-- The registers that hold the counter. -/
  loopNames : LoopReg → List RegName
    | .a => [.a]
    | .b => [.b]
    | .d => [.a, .b]
    | .x => [.x]
    | .y => [.y]
    | .sp => [.sp]
  /-- The counter as an integer. -/
  loopValue (s : State) : LoopReg → Int
    | .a => s.a.toNat
    | .b => s.b.toNat
    | .d => s.d.toNat
    | .x => s.x.toNat
    | .y => s.y.toNat
    | .sp => s.sp.toNat
  /-- How many values the counter has. -/
  loopModulus : LoopReg → Int
    | .a => 256
    | .b => 256
    | .d => 65536
    | .x => 65536
    | .y => 65536
    | .sp => 65536

/-- The register names of a transfer operand; CCR has none. -/
def regNames : Reg → List RegName
  | .r8 .a => [.a]
  | .r8 .b => [.b]
  | .r8 .ccr => []
  | .r16 .d => [.a, .b]
  | .r16 .x => [.x]
  | .r16 .y => [.y]
  | .r16 .sp => [.sp]

/-- The flags a transfer into this operand writes. -/
def regFlags : Reg → List Flag
  | .r8 .ccr => [.c, .v, .z, .n, .i, .h, .xm, .s]
  | .r8 .a => []
  | .r8 .b => []
  | .r16 _ => []

/-- What an 8-bit register holds after `v` was written to it in `s`: CCR takes it under `WriteCCR` (10_state.md R35). -/
def State.written8 (s : State) (r : Reg8) (v : Byte) : Byte :=
  match r with
  | .a => v
  | .b => v
  | .ccr => BitVec.ofBool (v.getLsbD 7) ++ BitVec.ofBool (v.getLsbD 6 && getFlag s.ccr .xm) ++ v.extractLsb' 0 6

/-! ## The exception frame -/

/-- The nine byte stores of the frame of 47_system.md R544 below SP, the latest one first: CCR at the lowest address,
then B, A, X, Y and the return address. -/
def State.frameStores (s : State) (rtn : Word) : List (Word × Byte) :=
  (s.sp - 9, s.ccr) :: wordStores (s.sp - 8) (s.b ++ s.a) ++ wordStores (s.sp - 6) s.x ++ wordStores (s.sp - 4) s.y ++
    wordStores (s.sp - 2) rtn

/-- From `s` to `t` the exception with this return address and vector is taken (60_exceptions.md R570): the frame, SP down
by nine, I set, X set for XIRQ, PC from the vector where the vector can be read back, the CPU running. -/
structure TakesException (s t : State) (rtn vector : Word) (setX : Bool) : Prop where
  frame : Effect s { t with runState := s.runState, progress := s.progress, requests := s.requests } [.sp]
    (if setX then [.i, .xm] else [.i]) (s.frameStores rtn)
  sp : t.sp = s.sp - 9
  i : getFlag t.ccr .i = true
  xm : setX = true → getFlag t.ccr .xm = true
  pc : s.plain vector = true → s.plain (vector + 1) = true → t.pc = t.peek16 vector
  running : t.runState = .running
  progress : t.progress = none

/-- The nine bytes of a frame whose lowest one is at `sp` can be written and read back. -/
def State.frameWritable (s : State) (sp : Word) : Prop := ∀ k < 9, s.writable (sp + BitVec.ofNat 16 k) = true

/-! ## Requests -/

/-- No reset is requested, at the sampling point or before the next one. -/
def Requests.noReset (r : Requests) : Prop :=
  r.pinReset = false ∧ r.clockMonitor = false ∧ r.cop = false ∧ r.cutBy = none

/-- Is the request of the on-chip source `k` seen? While Stopped only the sources that need no clock are
(60_exceptions.md R580, D16). -/
def State.sees (s : State) (r : Requests) (k : Nat) : Prop :=
  k ∈ r.sources ∧ (s.runState = .stopped → k ∈ s.cfg.stopSources)

/-- The masks allow an interrupt with this vector, and none of higher priority is requested (60_exceptions.md R566, R575,
R577): XIRQ with X clear; else with I clear IRQ, else the source of lowest number that has a vector. -/
def State.takes (s : State) (r : Requests) (vector : Word) (setX : Bool) : Prop :=
  (r.xirq = true ∧ getFlag s.ccr .xm = false ∧ vector = s.cfg.vec.xirq ∧ setX = true) ∨
    ((r.xirq = false ∨ getFlag s.ccr .xm = true) ∧ getFlag s.ccr .i = false ∧ setX = false ∧
      (r.irq = true ∧ vector = s.cfg.vec.irq ∨
        r.irq = false ∧ ∃ k, s.sees r k ∧ s.cfg.vec.src[k]? = some vector ∧ ∀ j < k, ¬ s.sees r j))

/-- The masks hold off every request: XIRQ is absent or masked by X, the maskable ones are absent or masked by I. -/
def State.takesNone (s : State) (r : Requests) : Prop :=
  (r.xirq = false ∨ getFlag s.ccr .xm = true) ∧
    (getFlag s.ccr .i = true ∨ r.irq = false ∧ ∀ k, s.sees r k → s.cfg.vec.src[k]? = none)

/-- From `s`, Waiting or Stopped, the entry with this vector leads to `t` (60_exceptions.md R580): as `TakesException`, but
nothing is stacked and SP stays, because WAI or STOP has built the frame. -/
structure Wakes (s t : State) (vector : Word) (setX : Bool) : Prop where
  frame : Effect s { t with runState := s.runState, progress := s.progress, requests := s.requests } []
    (if setX then [.i, .xm] else [.i]) []
  i : getFlag t.ccr .i = true
  xm : setX = true → getFlag t.ccr .xm = true
  pc : s.plain vector = true → s.plain (vector + 1) = true → t.pc = s.peek16 vector
  running : t.runState = .running
  progress : t.progress = none

/-- The sampling point shows a reset, and none cuts off what follows; `vector` is that of the first cause in the order of
60_exceptions.md R566. -/
def State.resetBy (s : State) (r : Requests) (vector : Word) : Prop :=
  r.cutBy = none ∧
    (r.pinReset = true ∧ vector = s.cfg.vec.reset ∨
      r.pinReset = false ∧ r.clockMonitor = true ∧ vector = s.cfg.vec.clockMonitor ∨
      r.pinReset = false ∧ r.clockMonitor = false ∧ r.cop = true ∧ vector = s.cfg.vec.cop)

/-- `t` is where the reset sequence with this vector leads from `s` (70_reset_and_hazards.md R611): S, X and I are set, the
CPU runs from the word at the vector, and the bytes at the addresses `lost`, which abandoned work might have stored to,
hold any value (U19), every other byte what it held. -/
structure ResetFrom (s t : State) (vector : Word) (lost : List Word) (rest : List Requests) : Prop where
  masks : getFlag t.ccr .s = true ∧ getFlag t.ccr .xm = true ∧ getFlag t.ccr .i = true
  running : t.runState = .running
  nothingBegun : t.progress = none ∧ t.ruleStores = [] ∧ t.stale = []
  requests : t.requests = rest
  config : t.cfg = s.cfg
  memory : lost = [] → t.mem = s.mem
  kept : s.cfg.ppageAddr = none → Memory.wf s.mem = true → ∀ x, x ∉ lost → t.peek x = s.peek x
  free : s.cfg.ppageAddr = none → Memory.wf s.mem = true → ∀ x ∈ lost, s.writable x = true →
    ∃ n, t.peek x = Config.freeByte n
  target : s.cfg.ppageAddr = none → s.plain vector = true → s.plain (vector + 1) = true → t.pc = t.peek16 vector

/-- The addresses that the work might store to, or that the rule evaluation it goes on with has stored to
(70_reset_and_hazards.md R611). -/
def State.mayStore (s : State) (w : Work) : List Word :=
  s.ruleStores ++
  match s.forgetStores.perform w with
  | .next t => t.stored
  | .fault _ => []
  | .refused _ => []

/-! ## Changes of flow -/

/-- What an instruction does to the queue (20_memory.md R102): nothing; a refill; a refill and then pushes; a refill where
its branch is taken. -/
inductive Flow where
  | never
  | always
  | stacks
  | when (taken : State → Bool)

/-- The branch of a loop primitive is taken (45_branch_jump_call.md R485 to R491). -/
def loopTaken (k : Int) (onZero : Bool) (r : LoopReg) (s : State) : Bool :=
  decide ((LoopRule.loopValue s r + k) % LoopRule.loopModulus r = 0) == onZero

/-- The byte that a bit branch `i` tests (45_branch_jump_call.md R480). -/
def bitBranchByte (i : Instr) (m : BitOperand) (s : State) : Byte :=
  let p := (s.advance i).eaBit m
  (p.2.read8 p.1).1

/-- The list of 20_memory.md R102; the conditions are those of 45_branch_jump_call.md R440, R480, R481, R485. -/
def flowOf (i : Instr) : Flow :=
  match i with
  | .bra _ | .lbra _ | .jmp _ | .rts | .rtc | .rti => .always
  | .bsr _ | .jsr _ | .call _ | .swi | .trap _ => .stacks
  | .brn _ | .lbrn _ => .when fun _ => false
  | .bhi _ | .lbhi _ => .when fun s => !(s.flagC || s.flagZ)
  | .bls _ | .lbls _ => .when fun s => s.flagC || s.flagZ
  | .bcc _ | .bhs _ | .lbcc _ | .lbhs _ => .when fun s => !s.flagC
  | .bcs _ | .blo _ | .lbcs _ | .lblo _ => .when State.flagC
  | .bne _ | .lbne _ => .when fun s => !s.flagZ
  | .beq _ | .lbeq _ => .when State.flagZ
  | .bvc _ | .lbvc _ => .when fun s => !s.flagV
  | .bvs _ | .lbvs _ => .when State.flagV
  | .bpl _ | .lbpl _ => .when fun s => !s.flagN
  | .bmi _ | .lbmi _ => .when State.flagN
  | .bge _ | .lbge _ => .when fun s => s.flagN == s.flagV
  | .blt _ | .lblt _ => .when fun s => s.flagN != s.flagV
  | .bgt _ | .lbgt _ => .when fun s => !(s.flagZ || s.flagN != s.flagV)
  | .ble _ | .lble _ => .when fun s => s.flagZ || s.flagN != s.flagV
  | .dbeq r _ => .when (loopTaken (-1) true r)
  | .dbne r _ => .when (loopTaken (-1) false r)
  | .ibeq r _ => .when (loopTaken 1 true r)
  | .ibne r _ => .when (loopTaken 1 false r)
  | .tbeq r _ => .when (loopTaken 0 true r)
  | .tbne r _ => .when (loopTaken 0 false r)
  | .brclr m mask rel => .when fun s => bitBranchByte (.brclr m mask rel) m s &&& mask == 0
  | .brset m mask rel => .when fun s => ~~~(bitBranchByte (.brset m mask rel) m s) &&& mask == 0
  | _ => .never

/-- From `s` to `t` the queue and the stale bytes follow the change of flow: given up by a refill, after which only what the
instruction itself stacked (at the bytes from SP on) counts as stored; else kept, with the bytes stored now in front. -/
def FollowsFlow (s t : State) : Flow → Prop
  | .never => t.queue = s.queue ∧ s.stale <:+ t.stale
  | .always => t.queue = [] ∧ t.stale = []
  | .stacks => t.queue = [] ∧ ∀ c ∈ t.stale, ∃ k < 9, c.1 = (t.sp + BitVec.ofNat 16 k).toNat
  | .when taken =>
    if taken s = true then t.queue = [] ∧ t.stale = [] else t.queue = s.queue ∧ t.stale = s.stale

/-! ## Fuzzy logic -/

/-- The bytes of `l` stand at `a` and after it. -/
def State.holds (s : State) : Word → List Byte → Prop
  | _, [] => True
  | a, v :: rest => s.peek a = v ∧ s.plain a = true ∧ s.holds (a + 1) rest

/-- The words of `l` as bytes, the high byte first (20_memory.md R82). -/
def ruleWordBytes : List Word → List Byte
  | [] => []
  | w :: rest => w.extractLsb' 8 8 :: w.extractLsb' 0 8 :: ruleWordBytes rest

/-- How far a rule evaluation has come: the truth value A, the phase V, how many weights were used, and what was stored,
the latest first. -/
structure RuleRun where
  a : Byte
  v : Bool
  weights : Nat
  stores : List (Word × Byte)
  deriving DecidableEq, Repr

/-- Where a rule evaluation begins. -/
def State.ruleStart (s : State) : RuleRun := { a := s.a, v := getFlag s.ccr .v, weights := 0, stores := [] }

/-- An input lowers A, an output is raised to A (46_fuzzy.md R523, R525): the element names the byte at `ea`. -/
def State.ruleByte (s : State) (r : RuleRun) (ea : Word) : RuleRun :=
  let m := (s.overlay r.stores ea).toNat
  if r.v = true then (if m < r.a.toNat then { r with stores := (ea, r.a) :: r.stores } else r)
  else { r with a := BitVec.ofNat 8 (min r.a.toNat m) }

/-- One element of REV's list, over what the addresses hold (46_fuzzy.md R523). -/
def State.revStep (s : State) (r : RuleRun) (o : Byte) : RuleRun :=
  if o = 0xFE then { r with a := if r.v = true then 0xFF else r.a, v := !r.v }
  else s.ruleByte r (s.y + o.zeroExtend 16)

/-- One element of REVW's list (46_fuzzy.md R525). -/
def State.revwStep (s : State) (r : RuleRun) (e : Word) : RuleRun :=
  if e = 0xFFFE then
    if r.v = true then { r with a := 0xFF, v := false }
    else if getFlag s.ccr .c = true then
      let w := (s.overlay r.stores (s.y + BitVec.ofNat 16 r.weights)).toNat
      { r with a := BitVec.ofNat 8 (r.a.toNat * (w + 1) / 256), v := true, weights := r.weights + 1 }
    else { r with v := true }
  else s.ruleByte r e

/-- The elements of a list, by REV. -/
def State.revRun (s : State) (l : List Byte) : RuleRun := l.foldl s.revStep s.ruleStart

/-- The elements of a list, by REVW. -/
def State.revwRun (s : State) (l : List Word) : RuleRun := l.foldl s.revwStep s.ruleStart

/-- Nothing is stored among the `n` bytes from `a` on. -/
def RuleRun.avoids (r : RuleRun) (a : Word) (n : Nat) : Prop :=
  ∀ c ∈ r.stores, ∀ k < n, c.1 ≠ a + BitVec.ofNat 16 k

/-- `t` is as far as `run` from `s`, the list pointer moved by `moved` bytes. -/
structure AtRun (s t : State) (run : RuleRun) (moved : Nat) : Prop where
  a : t.a = run.a
  v : getFlag t.ccr .v = run.v
  x : t.x = s.x + BitVec.ofNat 16 moved
  y : t.y = s.y + BitVec.ofNat 16 run.weights

/-- The evaluation `i` is interrupted at the sampling point `r` after the elements of `run` (46_fuzzy.md R524): the state
`u` it has reached shows in the registers and in memory, and the exception is taken from there with the address of the
instruction itself as return address. -/
def InterruptedAt (i : Instr) (s : State) (run : RuleRun) (moved : Nat) (vector : Word) (setX : Bool)
    (rest : List Requests) : Prop :=
  ∃ u t, exec i s = .next t ∧ Effect s u [.a, .x, .y] [.v] run.stores ∧ AtRun s u run moved ∧
    TakesException u t s.pc vector setX ∧ t.requests = rest

/-- A reset at the sampling point after the elements of `run` abandons the evaluation `i`: all that it has stored holds any
value (70_reset_and_hazards.md R611, U19). -/
def AbandonedAt (i : Instr) (s : State) (run : RuleRun) (vector : Word) (rest : List Requests) : Prop :=
  ∃ t, exec i s = .next t ∧ ResetFrom s t vector (run.stores.map Prod.fst ++ s.ruleStores) rest

/-- The evaluation `i` has not come to its end mark when the step ends (log entry 9): PC stays, the next step goes on, and
what the evaluation has stored is on record. -/
def Unfinished (i : Instr) (k : Progress) (s : State) (run : RuleRun) (moved : Nat) : Prop :=
  ∃ t, exec i s = .next t ∧ t.pc = s.pc ∧ t.progress = some k ∧ AtRun s t run moved ∧
    t.ruleStores = run.stores.map Prod.fst ++ s.ruleStores ∧
    Effect s { t with progress := s.progress } [.a, .x, .y] [.v] run.stores

/-- The three words of the intermediate sums below SP, the latest store first (46_fuzzy.md R528). -/
def sumStores (sp : Word) (sop : BitVec 32) (sow : Word) : List (Word × Byte) :=
  wordStores (sp - 6) sow ++ wordStores (sp - 4) (sop.extractLsb' 16 16) ++ wordStores (sp - 2) (sop.extractLsb' 0 16)

/-- The sum of the products S·F of WAV (46_fuzzy.md R527), `n` elements from `x` and `y` on. -/
def State.sumProducts (s : State) : Nat → Word → Word → Nat
  | 0, _, _ => 0
  | n + 1, x, y => (s.peek x).toNat * (s.peek y).toNat + s.sumProducts n (x + 1) (y + 1)

/-- The sum of the weights F of WAV (46_fuzzy.md R527), `n` elements from `y` on. -/
def State.sumWeights (s : State) : Nat → Word → Nat
  | 0, _ => 0
  | n + 1, y => (s.peek y).toNat + s.sumWeights n (y + 1)

/-- Every address can be read back, so that no read draws a free value. -/
def State.allPlain (s : State) : Prop := ∀ a, s.plain a = true

/-- The grade of membership by the source's formula over integers, with the vertical sides of 46_fuzzy.md R522. -/
def gradeOf (a p1 p2 s1 s2 : Nat) : Nat :=
  if a < p1 ∨ p2 < a then 0
  else min (if s1 = 0 then 255 else min ((a - p1) * s1) 255) (if s2 = 0 then 255 else min ((p2 - a) * s2) 255)

/-! ## Where an instruction has no next state -/

/-- The refusal of an instruction in a state, where it has one (NOTES.md, log entries 10, 11, 24). -/
def stopOf (i : Instr) (s : State) : Option Refusal :=
  match i with
  | .leas f => if leaPostOwn f .sp then some .leaPostOwnBase else none
  | .leax f => if leaPostOwn f .x then some .leaPostOwnBase else none
  | .leay f => if leaPostOwn f .y then some .leaPostOwnBase else none
  | .movb src dst => if moveRefused s (source8UsesPc src || destUsesPc dst) then some .movePcBase else none
  | .movw src dst => if moveRefused s (source16UsesPc src || destUsesPc dst) then some .movePcBase else none
  | .wav => if s.b = 0 then some .wavCountZero else none
  | .wavr => if s.b = 0 then some .wavCountZero else none
  | _ => none

/-- A number below 100 as two decimal digits (42_arithmetic.md R273). -/
def bcd (n : Nat) : Byte := BitVec.ofNat 8 (16 * (n / 10) + n % 10)

end Sys2Proof.Machine
end

