-- ==== Sys2Proof/Certificates/Slice0/Obligations.lean ====
section
/-!
DEFINITION. The statements for the provers. Each docstring names the rules of spec/ it formalises and the instructions it
speaks about.
-/

open Sys2Proof Sys2Proof.Machine

/-- O1. For every well-formed instruction with every operand, followed by any bytes, decode answers the instruction
(a second name of R152 answers the instruction whose bytes it shares) and exactly the bytes that follow. [R110,
R111, R112, R120, R140, R145, R147, R148, R152] -/
def Obligations.DecodeOfEncodeIsTheInstruction : Prop :=
    ∀ (i : Instr) (rest : List Byte), i.wf = true → decode (encode i ++ rest) = .ok i.canonical rest

/-- O2. For all bytes: if decode answers an instruction and a rest, the bytes are the encoding of that instruction
followed by the rest, the instruction is well formed, and it is no second name. So no byte is dropped and no two
byte sequences mean one instruction. And no instruction needs more than six bytes: with six bytes the decoder never
answers truncated. [R110, R111, R112, R120, R140, R145, R147, R148, R149] -/
def Obligations.EncodeOfDecodeIsTheBytes : Prop :=
    (∀ (bs rest : List Byte) (i : Instr), decode bs = .ok i rest →
      bs = encode i ++ rest ∧ i.wf = true ∧ i.canonical = i) ∧
    ∀ bs : List Byte, 6 ≤ bs.length → decode bs ≠ .bad .truncated

/-- O3. One word for each of several formats, written bit by bit from the tables: ADDA immediate, STD direct, LDAA
16-bit offset indirect, LEAX B,X, TFR X,SP, DBNE B,-6, MOVW ext,ext, BRSET 16-bit offset, LBRA, TRAP; a reserved
postbyte of LEAX, of TFR and of the loop primitives is refused by name. (The layouts of the indexed, transfer and
loop postbytes are PRESUMED K3, K4 and K5 in the spec, log entry 16.) [R120, R128, R140, R145, R147, R148] -/
def Obligations.WrittenWordsDecode : Prop :=
    decode [0x8B, 0x80] = .ok (.adda (.imm 0x80)) [] ∧
    decode [0x5C, 0x40] = .ok (.std (.dir 0x40)) [] ∧
    decode [0xA6, 0xE3, 0x00, 0x02] = .ok (.ldaa (.mem (.idx (.ind16 .x 2)))) [] ∧
    decode [0x1A, 0xE5] = .ok (.leax (.short (.acc .x .b))) [] ∧
    decode [0xB7, 0x57] = .ok (.tfr (.r16 .x) (.r16 .sp)) [] ∧
    decode [0x04, 0x31, 0xFA] = .ok (.dbne .b (-6)) [] ∧
    decode [0x18, 0x04, 0x10, 0x00, 0x20, 0x00] = .ok (.movw (.ext 0x1000) (.ext 0x2000)) [] ∧
    decode [0x0E, 0xE2, 0x12, 0x34, 0x01, 0x10] = .ok (.brset (.idx (.const16 .x 0x1234)) 0x01 0x10) [] ∧
    decode [0x18, 0x20, 0xFF, 0xFC] = .ok (.lbra 0xFFFC) [] ∧
    decode [0x18, 0x30] = .ok (.trap 0x30) [] ∧
    decode [0x1A, 0xE7] = .bad .reservedIndexed ∧
    decode [0xB7, 0x08] = .bad .reservedTransfer ∧
    decode [0x04, 0xC0, 0x00] = .bad .reservedLoop

/-- O4. For every state that satisfies Inv, if step answers a next state, that state satisfies Inv: memory keeps its
canonical form, the queue is empty or holds the three aligned words from PC on, every stale byte lies in the
64-Kbyte space, an unfinished rule evaluation is there only in the run state Running, and the addresses it has
stored to are on record only while it is unfinished; and no step changes the parameters of the machine. The
canonical form, the stale bytes, the progress and its record are the model's own, and so is when the queue is read
(log entries 2, 8, 9, 14, 37). [R80, R82, R100, R101, R530, R545] -/
def Obligations.StepKeepsInvariant : Prop :=
    ∀ s t : State, step s = .next t → t.cfg = s.cfg ∧ (Inv s → Inv t)

/-- O5. State.reset satisfies Inv. [R42, R611] -/
def Obligations.ResetSatisfiesInvariant : Prop :=
    Inv State.reset

/-- O6. State.reset has S = X = I = 1, run state Running, no request, an empty instruction queue, and PC equal to
the word that its memory holds at $FFFE. (PRESUMED K9 and K8 in the spec; the values of the other registers are the
model's choice, log entry 1, and are not stated.) [R42, R611, R612] -/
def Obligations.ResetState : Prop :=
    State.reset.ccr.getLsbD 7 = true ∧ State.reset.ccr.getLsbD 6 = true ∧ State.reset.ccr.getLsbD 4 = true ∧
    State.reset.pc = State.reset.peek16 0xFFFE ∧ State.reset.runState = .running ∧
    State.reset.requests = [] ∧ State.reset.queue = [] ∧ State.reset.stale = []

/-- O7. For every state in which X is clear and in which no coming sampling point shows a reset or an XIRQ request
(maskable requests may be there), whatever the step does, if it answers a next state then X is still clear.
(PRESUMED K10, log entry 18.) [R33, R35, R577] -/
def Obligations.SoftwareNeverSetsX : Prop :=
    ∀ s t : State, (∀ r ∈ s.requests, r.noReset ∧ r.xirq = false) → getFlag s.ccr .xm = false → step s = .next t →
    getFlag t.ccr .xm = false

/-- O8. For every instruction but CALL and RTC and every state with nothing requested and PPAGE at no address: if
exec answers a next state, PPAGE is as before. [R37] -/
def Obligations.OnlyCallAndRtcChangePpage : Prop :=
    ∀ (i : Instr) (s t : State), s.cfg.ppageAddr = none → s.requests = [] → (∀ c, i ≠ .call c) → i ≠ .rtc →
    exec i s = .next t → t.ppage = s.ppage

/-- O9. For every instruction and every state: exec answers the refusal that stopOf names (LEAS, LEAX, LEAY
post-modifying their own destination; MOVB, MOVW with PC as base on the M68HC12; WAV, wavr with B = 0), and where
stopOf names none exec answers a next state with the same parameters. (The refusals are choices, which the spec
decides and the model follows: D28, log entry 11; D10, log entry 24; D21, log entry 10.) [R147, R148, R131, R174,
R175, R176, R527, R529] -/
def Obligations.EveryInstructionCompletesOrIsRefusedByName : Prop :=
    ∀ (i : Instr) (s : State),
    match stopOf i s with
    | some r => exec i s = .refused r
    | none => ∃ t, exec i s = .next t ∧ t.cfg = s.cfg

/-- O10. For every instruction and every state, exec of the instruction and exec of the instruction the decoder
reads from its bytes answer the same (BHS and BCC, ABX and LEAX B,X, SEX and TFR, CLI and ANDCC #$EF, and so on for
all 27). [R152, R177, R179, R211, R218, R224, R336, R337, R351, R447, R466] -/
def Obligations.SecondNamesAreTheirInstructions : Prop :=
    ∀ (i : Instr) (s : State), exec i s = exec i.canonical s

/-- O11. For every running state whose sampling point takes no event and shows no coming reset. Without an
unfinished rule evaluation: if the bytes fetched decode to an instruction i, step is exec of i on the state after
sampling and fetching, which differs from the sampled state at most in the queue and the count of free values drawn,
followed by reading ahead; if they are a reserved encoding, step refuses it by name. With one: step is exec of REV
or REVW again, with the mark removed. Reading ahead changes nothing but the queue, which then holds the three
aligned words from PC on, and the count. (That the reading ahead ends the step is log entry 37, that an evaluation
can take several steps log entry 9, both DESIGN CHOICE.) [R100, R111, R523, R574] -/
def Obligations.StepRunsTheDecodedInstruction : Prop :=
    (∀ (s : State), s.runState = .running → s.progress = none → s.sample.2.eventOf s.sample.1 = none →
      s.sample.1.cutBy = none →
      (∃ q n, s.sample.2.fetch.2 = { s.sample.2 with queue := q, draws := n }) ∧
      (∀ i rest, decode s.sample.2.fetch.1 = .ok i rest → step s = settle (exec i s.sample.2.fetch.2)) ∧
      (∀ e, decode s.sample.2.fetch.1 = .bad e → step s = .refused (.reserved e))) ∧
    (∀ (s : State), s.runState = .running → s.sample.2.eventOf s.sample.1 = none → s.sample.1.cutBy = none →
      (s.progress = some .rev → step s = settle (exec .rev { s.sample.2 with progress := none })) ∧
      (s.progress = some .revw → step s = settle (exec .revw { s.sample.2 with progress := none }))) ∧
    ∀ t : State, ∃ q n, settle (.next t) = .next { t with queue := q, draws := n } ∧
      q.map Prod.fst = (List.range 6).map fun k => (t.queueBase + BitVec.ofNat 16 k).toNat

/-- O12. For every running state with nothing requested, nothing stale, a queue that holds what memory holds (an
empty one does) and no unfinished rule evaluation: if the bytes of a well-formed instruction i stand at PC, even or
odd, and the four aligned words there can be read back, step is exec of i on this state with some queue, followed by
reading ahead. [R100, R110, R111, R112, R80, R82] -/
def Obligations.StepRunsTheBytesAtPc : Prop :=
    ∀ (i : Instr) (s : State), i.wf = true → s.runState = .running → s.progress = none → s.requests = [] →
    s.stale = [] → (∀ c ∈ s.queue, c.1 < 65536 ∧ c.2 = s.peek (BitVec.ofNat 16 c.1)) →
    (∀ k < 8, s.plain (s.queueBase + BitVec.ofNat 16 k) = true) → s.holds s.pc (encode i) →
    ∃ q, step s = settle (exec i { s with queue := q })

/-- O13. A store to an address that can be written records there the value held before, for that address alone. A
fetch of a byte of the queue answers it where nothing is recorded for its address, else it, the byte read now or one
of the recorded values. Reading ahead keeps each of the three aligned words from PC on that the queue holds, with
the same bytes whatever memory holds now, and reads each of the others whole; with nothing queued and plain memory
the queue holds what memory holds. For every instruction and state with nothing requested: each change of flow of
R102 (a taken branch of any kind, jump, call, return, SWI, TRAP) leaves the queue empty and no stale byte but those
it stacked itself, and every other instruction, a branch not taken included, keeps the queue and the stale bytes.
Taking an interrupt or a reset empties the queue too. (The recording and the order of refill and stacking are the
model's, log entry 8, DESIGN CHOICE; so is when the queue reads ahead, log entry 37.) [R41, R100, R101, R102] -/
def Obligations.StaleBytesAndTheirRefill : Prop :=
    (∀ (s : State) (a : Word) (v : Byte), s.writable a = true →
      (s.write8 a v).staleValues a = s.peek a :: s.staleValues a ∧
      ∀ b, b ≠ a → (s.write8 a v).staleValues b = s.staleValues b) ∧
    (∀ (s : State) (a : Word) (v : Byte), s.staleValues a = [] → s.fetch8 (a.toNat, v) = (v, s)) ∧
    (∀ (s : State) (a : Word) (v : Byte), (s.fetch8 (a.toNat, v)).1 = v ∨
      (s.fetch8 (a.toNat, v)).1 = (s.read8 a).1 ∨ (s.fetch8 (a.toNat, v)).1 ∈ s.staleValues a) ∧
    (∀ (s : State), s.queue = [] → (∀ k < 6, s.plain (s.queueBase + BitVec.ofNat 16 k) = true) →
      s.readAhead = { s with queue := (List.range 6).map fun k =>
        ((s.queueBase + BitVec.ofNat 16 k).toNat, s.peek (s.queueBase + BitVec.ofNat 16 k)) }) ∧
    (∀ (s : State) (k : Nat), k < 3 →
      let a := s.queueBase + BitVec.ofNat 16 (2 * k)
      (∀ hi lo, s.queued a = some hi → s.queued (a + 1) = some lo →
        s.readAhead.queued a = some hi ∧ s.readAhead.queued (a + 1) = some lo) ∧
      (s.queued a = none ∨ s.queued (a + 1) = none → s.plain a = true → s.plain (a + 1) = true →
        s.readAhead.queued a = some (s.peek a) ∧ s.readAhead.queued (a + 1) = some (s.peek (a + 1)))) ∧
    (∀ (i : Instr) (s t : State), s.requests = [] → exec i s = .next t → FollowsFlow s t (flowOf i)) ∧
    (∀ (s : State) (v : Word) (setX : Bool), (s.takeEvent (.interrupt v setX)).queue = []) ∧
    ∀ (s : State) (v : Word), (s.takeEvent (.reset v)).queue = [] ∧ (s.takeEvent (.reset v)).stale = []

/-- O14. For every running state whose next sampling point shows no reset: XIRQ requested with X clear is taken;
else, with I clear, IRQ is taken if requested, else the requesting source of lowest number, if it has a vector:
frame of R570 with the PC as return address, I set (X too for XIRQ), PC from its vector, the sampling point used up.
In every other case (XIRQ absent or masked by X, and I set or no IRQ and no source with a vector) step does what it
does when that point shows no request. (Priority and vectors PRESUMED K8, log entry 17; sampling between
instructions and X set by XIRQ PRESUMED K22, log entry 28; the vector is read after the frame is stacked, R570, log
entry 38.) [R565, R566, R570, R571, R573, R574, R575, R577] -/
def Obligations.InterruptsOfARunningCpu : Prop :=
    ∀ (s : State) (r : Requests) (rest : List Requests), s.runState = .running → s.requests = r :: rest → r.noReset →
    (∀ (v : Word) (setX : Bool), s.takes r v setX →
      ∃ t, step s = .next t ∧ TakesException s t s.pc v setX ∧ t.requests = rest) ∧
    (s.takesNone r → step s = step { s with requests := noRequests :: rest })

/-- O15. For every state, in every run state: if the next sampling point shows an external reset, else a clock
monitor reset, else a COP reset (and no second reset behind it), step answers a next state with S = X = I = 1,
Running, no unfinished rule evaluation, the other requests left as they come, and PC the word at the vector of the
cause (where PPAGE is at no address and the vector can be read back); memory is unchanged, but the bytes that a rule
evaluation in progress has stored hold free values. If instead a reset of any cause arrives after the sampling
point, whatever work the CPU then does is abandoned (unless that work is refused): the same state follows, and every
byte holds what it held but those the work might have stored to, or the rule evaluation it goes on with has stored,
which hold free values. (S, X, I set: PRESUMED K9; causes, their order and vectors: PRESUMED K8, log entry 17; which
bytes count and that memory is otherwise kept: log entry 14, DESIGN CHOICE; the free bytes: log entry 5.) [R566,
R611, R42] -/
def Obligations.ResetIsTakenFromEveryRunState : Prop :=
    (∀ (s : State) (r : Requests) (rest : List Requests) (v : Word), s.requests = r :: rest →
      s.resetBy r v → ∃ t, step s = .next t ∧ ResetFrom s t v s.ruleStores rest) ∧
    ∀ (s : State) (r : Requests) (rest : List Requests) (c : ResetCause), s.requests = r :: rest → r.cutBy = some c →
      let w := State.work { s with requests := rest } r
      (∀ e, w.2.forgetStores.perform w.1 ≠ .refused e) →
      ∃ t, step s = .next t ∧ ResetFrom s t (s.resetVector c) (w.2.mayStore w.1) rest

/-- O16. In Waiting and in Stopped, for every sampling point without a reset: a request that the masks allow (XIRQ
with X clear; else, with I clear, IRQ, else the lowest seen source with a vector; while Stopped a source is seen
only if it needs no clock) is taken: Running, I set (X too for XIRQ), SP, memory and every other register as before,
PC the word at its vector where that can be read back. Where the masks allow none, Stopped with XIRQ requested goes
on after the STOP: SP up by nine and Running, nothing else but reading ahead; else the state stays as it is, and
with nothing requested too. In Background a sampling point without a reset ends the run in the fault background
(D15). (PRESUMED K20, K8 and K22, log entries 17, 26, 27, 28.) [R545, R548, R580, R611] -/
def Obligations.SuspendedStatesEnd : Prop :=
    (∀ (s : State), s.runState = .waiting ∨ s.runState = .stopped → s.requests = [] → step s = .next s) ∧
    (∀ (s : State) (r : Requests) (rest : List Requests), s.runState = .waiting ∨ s.runState = .stopped →
      s.requests = r :: rest → r.noReset →
      (∀ (v : Word) (setX : Bool), s.takes r v setX →
        ∃ t, step s = .next t ∧ Wakes s t v setX ∧ t.sp = s.sp ∧ t.requests = rest) ∧
      (s.takesNone r → s.runState = .stopped → r.xirq = true →
        step s = settle (.next { s with sp := s.sp + 9, runState := .running, requests := rest })) ∧
      (s.takesNone r → s.runState = .waiting ∨ r.xirq = false → step s = .next { s with requests := rest })) ∧
    ∀ s : State, s.runState = .background → s.sample.1.noReset → step s = .fault .background

/-- O17. Immediate operands are themselves; a direct, extended or indexed operand is the byte or big-endian word at
its address (where it can be read back), also at odd addresses and at $FFFF; an indexed one leaves the state that
forming the address left. The indexed address is base plus the signed 5-, 9- or 16-bit offset, base plus A, B
(unsigned) or D, the new base (pre) or the old one (post) with a step from -8 to 8, or the word at base plus offset
or D; the automatic forms leave the base moved by the step, no other form changes a base; PC as base is the address
after the instruction. (A and B unsigned: PRESUMED K23, log entry 39; PC as base: PRESUMED K18, log entry 24; the
coding of the step: PRESUMED K3, log entry 16; the wrap at $FFFF: D26, log entry 29, DESIGN CHOICE.) [R82, R84,
R113, R114, R115, R121, R122, R123, R124, R126, R127, R131] -/
def Obligations.OperandsAndAddresses : Prop :=
    (∀ (s : State) (v : Byte), s.operand8 (.imm v) = (v, s)) ∧ (∀ (s : State) (v : Word), s.operand16 (.imm v) = (v, s)) ∧
    (∀ (s : State) (a : Byte), s.plain (0x00#8 ++ a) = true →
      s.operand8 (.mem (.dir a)) = (s.peek (0x00#8 ++ a), s)) ∧
    (∀ (s : State) (a : Word), s.plain a = true → s.operand8 (.mem (.ext a)) = (s.peek a, s)) ∧
    (∀ (s : State) (a : Word), s.plain a = true → s.plain (a + 1) = true →
      s.operand16 (.mem (.ext a)) = (s.peek a ++ s.peek (a + 1), s)) ∧
    (∀ (s : State) (a : Byte), s.plain (0x00#8 ++ a) = true → s.plain ((0x00#8 ++ a) + 1) = true →
      s.operand16 (.mem (.dir a)) = (s.peek (0x00#8 ++ a) ++ s.peek ((0x00#8 ++ a) + 1), s)) ∧
    (∀ (s : State) (f : IdxFull),
      let p := s.eaFull f
      s.plain p.1 = true → s.operand8 (.mem (.idx f)) = (p.2.peek p.1, p.2) ∧
        (s.plain (p.1 + 1) = true → s.operand16 (.mem (.idx f)) = (p.2.peek p.1 ++ p.2.peek (p.1 + 1), p.2))) ∧
    (∀ (s : State) (f : IdxDirect), s.eaFull (.direct f) = s.eaDirect f) ∧
    (∀ (s : State) (f : IdxShort), s.eaDirect (.short f) = s.eaShort f) ∧
    (∀ (s : State) (r : IdxBase) (n : BitVec 5),
      s.eaShort (.const5 r n) = (s.idxBase r + BitVec.ofInt 16 n.toInt, s)) ∧
    (∀ (s : State) (r : IdxBase) (n : BitVec 9),
      s.eaDirect (.const9 r n) = (s.idxBase r + BitVec.ofInt 16 n.toInt, s)) ∧
    (∀ (s : State) (r : IdxBase) (n : Word), s.eaDirect (.const16 r n) = (s.idxBase r + n, s)) ∧
    (∀ (s : State) (r : IdxBase), s.eaShort (.acc r .a) = (s.idxBase r + BitVec.ofNat 16 s.a.toNat, s) ∧
      s.eaShort (.acc r .b) = (s.idxBase r + BitVec.ofNat 16 s.b.toNat, s) ∧
      s.eaShort (.acc r .d) = (s.idxBase r + (s.a ++ s.b), s)) ∧
    (∀ (s : State) (r : AutoBase) (n : BitVec 4) (step : Int),
      step = (if n.toNat < 8 then (n.toNat : Int) + 1 else (n.toNat : Int) - 16) →
      (s.eaShort (.pre r n)).1 = s.autoBase r + BitVec.ofInt 16 step ∧ (s.eaShort (.post r n)).1 = s.autoBase r ∧
      ∀ f ∈ [IdxShort.pre r n, IdxShort.post r n],
        (s.eaShort f).2.autoBase r = s.autoBase r + BitVec.ofInt 16 step ∧
        Effect s (s.eaShort f).2 [autoName r] [] []) ∧
    (∀ (s : State) (r : IdxBase) (n : Word), s.plain (s.idxBase r + n) = true → s.plain (s.idxBase r + n + 1) = true →
      s.eaFull (.ind16 r n) = (s.peek16 (s.idxBase r + n), s)) ∧
    (∀ (s : State) (r : IdxBase), s.plain (s.idxBase r + s.d) = true → s.plain (s.idxBase r + s.d + 1) = true →
      s.eaFull (.indD r) = (s.peek16 (s.idxBase r + s.d), s)) ∧
    ∀ (s : State) (i : Instr), (s.advance i).idxBase .pc = s.pcNext i

/-- O18. For every state with canonical memory and every extended address a whose two bytes can be stored: after STD
a, LDX a loads the old D, and the byte at a is A, the byte at a + 1 is B; also for a = $FFFF, whose second byte lies
at $0000, where the wrap is the spec's decision D26 (log entry 29, DESIGN CHOICE). [R9, R82, R83, R86] -/
def Obligations.StoredWordReadsBack : Prop :=
    ∀ (s t u : State) (a : Word), Memory.wf s.mem = true → s.writable a = true → s.writable (a + 1) = true →
    exec (.std (.ext a)) s = .next t → exec (.ldx (.mem (.ext a))) t = .next u →
    u.x = s.d ∧ t.peek a = s.a ∧ t.peek (a + 1) = s.b

/-- O19. For every operand form and state each of the six loads answers a next state: the register is the operand, N
and Z are the operand's, V is 0, PC is after the instruction; an auto-modified base is moved by its step, every
other register, every other flag and all of memory are unchanged; a loaded register that is also the auto-modified
base holds the loaded value. (Flags PRESUMED K2, K28; log entries 15, 32.) [R160, R162, R163, R164, R165, R166,
R167] -/
def Obligations.Loads : Prop :=
    LoadRule8 .ldaa .a ∧ LoadRule8 .ldab .b ∧ LoadRule16 .ldd [.a, .b] State.d ∧ LoadRule16 .lds [.sp] State.sp ∧
    LoadRule16 .ldx [.x] State.x ∧ LoadRule16 .ldy [.y] State.y

/-- O20. For every operand form and state each of the six stores answers a next state: the one or two bytes at the
effective address hold the register (read after an automatic modification), every other byte, every register but an
auto-modified base, which is moved by its step, and every flag but N, Z, V are unchanged; N, Z are the value's, V is
0. (Flags PRESUMED K2, K28; log entries 15, 32.) [R88, R160, R168, R169, R170, R171, R172, R173] -/
def Obligations.Stores : Prop :=
    StoreRule8 .staa State.a ∧ StoreRule8 .stab State.b ∧ StoreRule16 .std State.d ∧ StoreRule16 .sts State.sp ∧
    StoreRule16 .stx State.x ∧ StoreRule16 .sty State.y

/-- O21. For every form and state LEAS, LEAX, LEAY answer a next state with the effective address in SP, X, Y and
nothing else changed but an auto-modified base, which is moved by its step, except that a post form on the
destination itself is refused (D28, log entry 11); ABX and ABY add B, unsigned (PRESUMED K23, log entry 39), DES and
INS move SP by one. (That no flag changes is PRESUMED K2, log entry 15.) [R174, R175, R176, R177, R178, R179, R180]
-/
def Obligations.LoadEffectiveAddress : Prop :=
    LeaRule .leas .sp ∧ LeaRule .leax .x ∧ LeaRule .leay .y ∧
    (∀ s, Completes .abx s [.x] [] [] fun t => t.x.toNat = (s.x.toNat + s.b.toNat) % 65536) ∧
    (∀ s, Completes .aby s [.y] [] [] fun t => t.y.toNat = (s.y.toNat + s.b.toNat) % 65536) ∧
    (∀ s, Completes .des s [.sp] [] [] fun t => t.sp.toNat = (s.sp.toNat + 65535) % 65536) ∧
    ∀ s, Completes .ins s [.sp] [] [] fun t => t.sp.toNat = (s.sp.toNat + 1) % 65536

/-- O22. For every source, destination and state, but PC as base on the M68HC12: MOVB and MOVW answer a next state
in which the one or two bytes at the destination address (found after the source was read and its base modified)
hold the value read, every auto-modified base is moved by its step, and every other byte, every flag and every other
register are unchanged. With PC as base on the M68HC12 they are refused (D10, log entry 24). (That the destination
address is found after the source was read and its base moved is PRESUMED K28, log entry 32; that no flag changes is
PRESUMED K2, log entry 15.) [R130, R131, R200, R201] -/
def Obligations.MemoryMoves : Prop :=
    (∀ src dst s,
      if s.cfg.variant = .m68hc12 ∧ (source8UsesPc src = true ∨ destUsesPc dst = true) then
        exec (.movb src dst) s = .refused .movePcBase
      else
        let v := (s.advance (.movb src dst)).moveSource8 src
        CompletesVia (.movb src dst) s (v.2.eaDest dst).2 [] (source8Auto src ++ destAuto dst) []
          [((v.2.eaDest dst).1, v.1)] fun _ => True) ∧
    ∀ src dst s,
      if s.cfg.variant = .m68hc12 ∧ (source16UsesPc src = true ∨ destUsesPc dst = true) then
        exec (.movw src dst) s = .refused .movePcBase
      else
        let v := (s.advance (.movw src dst)).moveSource16 src
        CompletesVia (.movw src dst) s (v.2.eaDest dst).2 [] (source16Auto src ++ destAuto dst) []
          (wordStores (v.2.eaDest dst).1 v.1) fun _ => True

/-- O23. For every pair of registers and state TFR answers a next state in which the destination holds the source
(sign-extended from 8 to 16 bits, the low byte from 16 to 8) and nothing else changes; CCR as destination takes the
value with X only ever cleared; SEX is the 8-to-16 case. TAP, TPA, TSX, TSY, TXS, TYS, XGDX, XGDY, TAB and TBA move
or exchange the registers they name, TAB and TBA also setting N and Z and clearing V. (X only ever cleared: PRESUMED
K10, log entry 18; the sign extension follows C1 against the printed TFR row, log entry 40, DEDUCED; the flags of
TAB and TBA, and that TFR and SEX with another destination than CCR, TPA, TSX, TSY, TXS, TYS, XGDX and XGDY change
no flag: PRESUMED K2, log entry 15.) [R35, R60, R210, R211, R212, R217, R218, R219, R220, R221, R222, R223, R224,
R225, R226, R227] -/
def Obligations.Transfers : Prop :=
    (∀ p q s, Completes (.tfr (.r8 p) (.r8 q)) s (regNames (.r8 q)) (regFlags (.r8 q)) [] fun t =>
      t.getReg8 q = s.written8 q (s.getReg8 p)) ∧
    (∀ p q s, Completes (.tfr (.r8 p) (.r16 q)) s (regNames (.r16 q)) [] [] fun t =>
      (t.getReg16 q).toInt = (s.getReg8 p).toInt) ∧
    (∀ p q s, Completes (.tfr (.r16 p) (.r8 q)) s (regNames (.r8 q)) (regFlags (.r8 q)) [] fun t =>
      t.getReg8 q = s.written8 q ((s.getReg16 p).extractLsb' 0 8)) ∧
    (∀ p q s, Completes (.tfr (.r16 p) (.r16 q)) s (regNames (.r16 q)) [] [] fun t =>
      t.getReg16 q = s.getReg16 p) ∧
    (∀ p q s, Completes (.sex p q) s (regNames (.r16 q)) [] [] fun t => (t.getReg16 q).toInt = (s.getReg8 p).toInt) ∧
    (∀ s, Completes .tap s [] [.c, .v, .z, .n, .i, .h, .xm, .s] [] fun t => t.ccr = s.written8 .ccr s.a) ∧
    (∀ s, Completes .tpa s [.a] [] [] fun t => t.a = s.ccr) ∧
    (∀ s, Completes .tsx s [.x] [] [] fun t => t.x = s.sp) ∧
    (∀ s, Completes .tsy s [.y] [] [] fun t => t.y = s.sp) ∧
    (∀ s, Completes .txs s [.sp] [] [] fun t => t.sp = s.x) ∧
    (∀ s, Completes .tys s [.sp] [] [] fun t => t.sp = s.y) ∧
    (∀ s, Completes .xgdx s [.a, .b, .x] [] [] fun t => t.d = s.x ∧ t.x = s.d) ∧
    (∀ s, Completes .xgdy s [.a, .b, .y] [] [] fun t => t.d = s.y ∧ t.y = s.d) ∧
    (∀ s, Completes .tab s [.b] [.n, .z, .v] [] fun t => t.b = s.a ∧ FlagsNZV8 t s.a false) ∧
    ∀ s, Completes .tba s [.a] [.n, .z, .v] [] fun t => t.a = s.b ∧ FlagsNZV8 t s.b false

/-- O24. For every pair and state EXG answers a next state: registers of one size are swapped (a value entering CCR
under WriteCCR); with the 8-bit register first the 16-bit one takes $00:r1; with the 16-bit register first its low
byte takes the 8-bit register, which takes the old low byte. Nothing else changes. What the source leaves unsaid is
free (U14, log entry 12). (WriteCCR: PRESUMED K10, log entry 18; that no flag changes where CCR is no operand:
PRESUMED K2, log entry 15.) [R35, R60, R213, R214, R215] -/
def Obligations.ExchangesBySize : Prop :=
    (∀ p q s, Completes (.exg (.r8 p) (.r8 q)) s (regNames (.r8 p) ++ regNames (.r8 q))
      (regFlags (.r8 p) ++ regFlags (.r8 q)) [] fun t =>
        t.getReg8 q = s.written8 q (s.getReg8 p) ∧ t.getReg8 p = s.written8 p (s.getReg8 q)) ∧
    (∀ p q s, Completes (.exg (.r16 p) (.r16 q)) s (regNames (.r16 p) ++ regNames (.r16 q)) [] [] fun t =>
      t.getReg16 q = s.getReg16 p ∧ t.getReg16 p = s.getReg16 q) ∧
    (∀ p q s, Completes (.exg (.r8 p) (.r16 q)) s (regNames (.r8 p) ++ regNames (.r16 q)) (regFlags (.r8 p)) [] fun t =>
      t.getReg16 q = 0x00#8 ++ s.getReg8 p) ∧
    ∀ p q s, Completes (.exg (.r16 p) (.r8 q)) s (regNames (.r16 p) ++ regNames (.r8 q)) (regFlags (.r8 q)) [] fun t =>
      (t.getReg16 p).extractLsb' 0 8 = s.getReg8 q ∧ t.getReg8 q = s.written8 q ((s.getReg16 p).extractLsb' 0 8)

/-- O25. Push8 takes SP down by one and writes the byte there; Push16 takes SP down by two and writes the high byte
at SP and the low byte at SP+1; Pull8 and Pull16 read at SP and then take SP up by one or two. With canonical
memory, what every address holds afterwards is said exactly; a byte that can be stored and pushed is pulled back.
[R10] -/
def Obligations.StackPrimitives : Prop :=
    (∀ (s : State) (v : Byte), (s.push8 v).sp = s.sp - 1 ∧
      (Memory.wf s.mem = true → ∀ x, (s.push8 v).peek x = s.overlay [(s.sp - 1, v)] x)) ∧
    (∀ (s : State) (v : Word), (s.push16 v).sp = s.sp - 2 ∧
      (Memory.wf s.mem = true → ∀ x, (s.push16 v).peek x = s.overlay (wordStores (s.sp - 2) v) x)) ∧
    (∀ s : State, s.pull8.2.sp = s.sp + 1 ∧ s.pull8.1 = (s.read8 s.sp).1 ∧ s.pull8.2.mem = s.mem) ∧
    (∀ s : State, s.pull16.2.sp = s.sp + 2 ∧ s.pull16.1 = (s.read16 s.sp).1 ∧ s.pull16.2.mem = s.mem) ∧
    (∀ (s : State) (a : Word), s.plain a = true → (s.read8 a).1 = s.peek a) ∧
    (∀ (s : State) (a : Word), s.plain a = true → s.plain (a + 1) = true → (s.read16 a).1 = s.peek16 a) ∧
    ∀ (s : State) (v : Byte), Memory.wf s.mem = true → s.writable (s.sp - 1) = true →
      (s.push8 v).pull8.1 = v ∧ (s.push8 v).pull8.2.sp = s.sp

/-- O26. For every state each push answers a next state: SP is down by one or two, the stacked bytes hold the
register (high byte lower), every other byte, register and flag is unchanged. Each pull answers a next state: the
register holds what a read at SP answers (CCR with X only ever cleared), SP is up by one or two, and no byte, no
other register and no flag (but all for PULC) changes. (X only ever cleared: PRESUMED K10, log entry 18; that no
flag changes, but by PULC: PRESUMED K2, log entry 15.) [R230, R231, R232, R233, R234, R235, R236, R237, R238, R239,
R240, R241] -/
def Obligations.PushesAndPulls : Prop :=
    (∀ s, Completes .psha s [.sp] [] [(s.sp - 1, s.a)] fun t => t.sp = s.sp - 1) ∧
    (∀ s, Completes .pshb s [.sp] [] [(s.sp - 1, s.b)] fun t => t.sp = s.sp - 1) ∧
    (∀ s, Completes .pshc s [.sp] [] [(s.sp - 1, s.ccr)] fun t => t.sp = s.sp - 1) ∧
    (∀ s, Completes .pshd s [.sp] [] (wordStores (s.sp - 2) (s.a ++ s.b)) fun t => t.sp = s.sp - 2) ∧
    (∀ s, Completes .pshx s [.sp] [] (wordStores (s.sp - 2) s.x) fun t => t.sp = s.sp - 2) ∧
    (∀ s, Completes .pshy s [.sp] [] (wordStores (s.sp - 2) s.y) fun t => t.sp = s.sp - 2) ∧
    (∀ s, Completes .pula s [.a, .sp] [] [] fun t => t.a = (s.read8 s.sp).1 ∧ t.sp = s.sp + 1) ∧
    (∀ s, Completes .pulb s [.b, .sp] [] [] fun t => t.b = (s.read8 s.sp).1 ∧ t.sp = s.sp + 1) ∧
    (∀ s, Completes .pulc s [.sp] [.c, .v, .z, .n, .i, .h, .xm, .s] [] fun t =>
      t.ccr = s.written8 .ccr (s.read8 s.sp).1 ∧ t.sp = s.sp + 1) ∧
    (∀ s, Completes .puld s [.a, .b, .sp] [] [] fun t => t.d = (s.read16 s.sp).1 ∧ t.sp = s.sp + 2) ∧
    (∀ s, Completes .pulx s [.x, .sp] [] [] fun t => t.x = (s.read16 s.sp).1 ∧ t.sp = s.sp + 2) ∧
    ∀ s, Completes .puly s [.y, .sp] [] [] fun t => t.y = (s.read16 s.sp).1 ∧ t.sp = s.sp + 2

/-- O27. For every operand form and state the accumulator becomes the sum of its old value, the operand (B for ABA)
and the old C for ADCA and ADCB, modulo 256; H, N, Z, V, C follow the Boolean forms; nothing else changes but an
auto-modified base, which is moved by its step. (Flags PRESUMED K2, log entry 15.) [R47, R251, R252, R253, R254,
R255] -/
def Obligations.AdditionsToAccumulators : Prop :=
    AddRule8 .adda .a (fun _ => false) ∧ AddRule8 .addb .b (fun _ => false) ∧ AddRule8 .adca .a State.flagC ∧
    AddRule8 .adcb .b State.flagC ∧
    ∀ s, Completes .aba s [.a] [.h, .n, .z, .v, .c] [] fun t =>
      t.a.toNat = (s.a.toNat + s.b.toNat) % 256 ∧ AddFlags8 t s.a s.b t.a

/-- O28. For every operand form and state the accumulator becomes its old value minus the operand (minus the old C
for SBCA and SBCB) modulo 256, the compares leave it; N, Z, V, C follow the Boolean forms of R49; an auto-modified
base is moved by its step; H and everything else are unchanged. (Flags PRESUMED K2, log entry 15.) [R49, R257, R258,
R259, R260, R261, R263, R264, R265] -/
def Obligations.SubtractionsAndCompares8 : Prop :=
    SubRule8 .suba .a (fun _ => false) ∧ SubRule8 .subb .b (fun _ => false) ∧ SubRule8 .sbca .a State.flagC ∧
    SubRule8 .sbcb .b State.flagC ∧ CompareRule8 .cmpa .a ∧ CompareRule8 .cmpb .b ∧
    (∀ s, Completes .sba s [.a] [.n, .z, .v, .c] [] fun t =>
      t.a.toNat = (s.a.toNat + 256 - s.b.toNat) % 256 ∧ SubFlags8 t s.a s.b t.a) ∧
    ∀ s, Completes .cba s [] [.n, .z, .v, .c] [] fun t => SubFlags8 t s.a s.b (s.a - s.b)

/-- O29. For every operand form and state D becomes the sum or difference modulo 65536; V tells that the signed
result does not fit, C the carry or borrow, N and Z are the result's; the compares change flags alone, on the
register as it stands after the operand access (DEDUCED from R130, K28, log entry 32); an auto-modified base is
moved by its step; H and everything else are unchanged. (Flags PRESUMED K2, log entry 15.) [R48, R50, R256, R262,
R266, R267, R268, R269] -/
def Obligations.Arithmetic16 : Prop :=
    (∀ o s,
      let m := s.fetched16 (.addd o) o
      CompletesVia (.addd o) s ((s.advance (.addd o)).operand16 o).2 [.a, .b] (auto16 o) [.n, .z, .v, .c] [] fun t =>
        t.d.toNat = (s.d.toNat + m.toNat) % 65536 ∧
        FlagsNZV16 t t.d (decide (s.d.toInt + m.toInt < -32768 ∨ 32767 < s.d.toInt + m.toInt)) ∧
        getFlag t.ccr .c = decide (65536 ≤ s.d.toNat + m.toNat)) ∧
    (∀ o s,
      let m := s.fetched16 (.subd o) o
      CompletesVia (.subd o) s ((s.advance (.subd o)).operand16 o).2 [.a, .b] (auto16 o) [.n, .z, .v, .c] [] fun t =>
        t.d.toNat = (s.d.toNat + 65536 - m.toNat) % 65536 ∧ SubFlags16 t s.d m t.d) ∧
    CompareRule16 .cpd State.d ∧ CompareRule16 .cps State.sp ∧ CompareRule16 .cpx State.x ∧ CompareRule16 .cpy State.y

/-- O30. For every operand form and state TST, TSTA, TSTB set N and Z from the byte and clear V and C; BITA and BITB
set N and Z from accumulator AND operand and clear V; an auto-modified base is moved by its step, and no other
register and no byte of memory changes. (Flags PRESUMED K2, log entry 15.) [R53, R270, R271, R272, R326, R327] -/
def Obligations.TestsOfBytes : Prop :=
    (∀ m s,
      let p := (s.advance (.tst m)).eaRmw m
      CompletesVia (.tst m) s p.2 [] (rmwAuto m) [.n, .z, .v, .c] [] fun t =>
        FlagsNZV8 t (p.2.read8 p.1).1 false ∧ getFlag t.ccr .c = false) ∧
    (∀ s, Completes .tsta s [] [.n, .z, .v, .c] [] fun t => FlagsNZV8 t s.a false ∧ getFlag t.ccr .c = false) ∧
    (∀ s, Completes .tstb s [] [.n, .z, .v, .c] [] fun t => FlagsNZV8 t s.b false ∧ getFlag t.ccr .c = false) ∧
    BitTestRule .bita .a ∧ BitTestRule .bitb .b

/-- O31. For every state DAA answers a next state: A is corrected by $06 if H is set or the low digit is above 9,
and by $60, with C set, if C is set or A is above $99; N and Z are the result's; V is free (U8); nothing else
changes. For all numbers m, n below 100 and every state with A the decimal digits of m: after ADDA of the digits of
n and DAA, A holds the digits of (m + n) modulo 100 and C tells a sum of 100 or more. (PRESUMED K12, log entry 19;
the flags: PRESUMED K2, log entry 15.) [R254, R273] -/
def Obligations.DecimalAdjust : Prop :=
    (∀ s, Completes .daa s [.a] [.n, .z, .v, .c] [] fun t =>
    let low := if getFlag s.ccr .h = true ∨ 9 < s.a.toNat % 16 then 6 else 0
    let high := if getFlag s.ccr .c = true ∨ 153 < s.a.toNat then 96 else 0
    t.a.toNat = (s.a.toNat + low + high) % 256 ∧ getFlag t.ccr .n = t.a.getLsbD 7 ∧
      getFlag t.ccr .z = decide (t.a = 0) ∧ getFlag t.ccr .c = decide (getFlag s.ccr .c = true ∨ 153 < s.a.toNat)) ∧
    ∀ (m n : Nat) (s t u : State), m < 100 → n < 100 → s.a = bcd m → exec (.adda (.imm (bcd n))) s = .next t →
    exec .daa t = .next u → u.a = bcd ((m + n) % 100) ∧ getFlag u.ccr .c = decide (100 ≤ m + n)

/-- O32. For every operand form and state the memory byte at the effective address (and no other), A or B becomes
the incremented, decremented, negated or complemented old value; INC and DEC keep C and set V at $7F and $80, NEG
sets V at $80 and C for a result other than 0, COM clears V and sets C; N and Z are the result's; nothing else
changes but an auto-modified base, which is moved by its step. INX, INY, DEX and DEY move their register by one
modulo 65536 and change only it and Z. (Flags PRESUMED K2, log entry 15.) [R52, R53, R250, R274, R275, R277, R278,
R279, R284, R328] -/
def Obligations.IncrementDecrementNegateComplement : Prop :=
    UnaryRule .inc .inca .incb incOp ∧ UnaryRule .dec .deca .decb decOp ∧ UnaryRule .neg .nega .negb negOp ∧
    UnaryRule .com .coma .comb comOp ∧
    (∀ s, Completes .inx s [.x] [.z] [] fun t =>
      t.x.toNat = (s.x.toNat + 1) % 65536 ∧ getFlag t.ccr .z = decide (t.x.toNat = 0)) ∧
    (∀ s, Completes .iny s [.y] [.z] [] fun t =>
      t.y.toNat = (s.y.toNat + 1) % 65536 ∧ getFlag t.ccr .z = decide (t.y.toNat = 0)) ∧
    (∀ s, Completes .dex s [.x] [.z] [] fun t =>
      t.x.toNat = (s.x.toNat + 65535) % 65536 ∧ getFlag t.ccr .z = decide (t.x.toNat = 0)) ∧
    ∀ s, Completes .dey s [.y] [.z] [] fun t =>
      t.y.toNat = (s.y.toNat + 65535) % 65536 ∧ getFlag t.ccr .z = decide (t.y.toNat = 0)

/-- O33. For every operand form and state each bit of the accumulator becomes the AND, OR or exclusive OR of its old
bit and the operand's; N and Z are the result's, V is 0; nothing else changes but an auto-modified base, which is
moved by its step. (Flags PRESUMED K2, log entry 15; the OR of ORAA and ORAB is a symbol lost from the source,
PRESUMED K29, log entry 39.) [R46, R320, R321, R322, R323, R324, R325] -/
def Obligations.LogicOnAccumulators : Prop :=
    LogicRule .anda .a (· && ·) ∧ LogicRule .andb .b (· && ·) ∧ LogicRule .oraa .a (· || ·) ∧
    LogicRule .orab .b (· || ·) ∧ LogicRule .eora .a Bool.xor ∧ LogicRule .eorb .b Bool.xor

/-- O34. CLRA is the byte $87 and CLRB the byte $C7; for every state each answers a next state with its accumulator
zero, N = 0, Z = 1, V = 0, C = 0, and nothing else changed. [R332, R333] -/
def Obligations.ClearAccumulators : Prop :=
    encode .clra = [0x87] ∧ encode .clrb = [0xC7] ∧
    (∀ s, Completes .clra s [.a] [.n, .z, .v, .c] [] fun t =>
      t.a = 0x00 ∧ getFlag t.ccr .n = false ∧ getFlag t.ccr .z = true ∧ getFlag t.ccr .v = false ∧
        getFlag t.ccr .c = false) ∧
    ∀ s, Completes .clrb s [.b] [.n, .z, .v, .c] [] fun t =>
      t.b = 0x00 ∧ getFlag t.ccr .n = false ∧ getFlag t.ccr .z = true ∧ getFlag t.ccr .v = false ∧
        getFlag t.ccr .c = false

/-- O35. For every operand form, mask and state: CLR makes the byte at the effective address 0 with NZVC = 0100 and,
reading nothing there, draws no free value but for an indirect pointer; BSET and BCLR make it the byte read OR the
mask, or AND the complemented mask, set N, Z and clear V; an auto-modified base is moved by its step, and no other
byte, register or flag changes. (The flags of BSET and BCLR are PRESUMED K2, log entry 15; the OR and the
complemented mask are symbols lost from the source, PRESUMED K29, log entry 39, read by C7, log entry 40.) [R46,
R88, R331, R342, R343] -/
def Obligations.ClearMemoryAndBits : Prop :=
    (∀ m s,
      let p := (s.advance (.clr m)).eaRmw m
      CompletesVia (.clr m) s p.2 [] (rmwAuto m) [.n, .z, .v, .c] [(p.1, 0)] fun t =>
        getFlag t.ccr .n = false ∧ getFlag t.ccr .z = true ∧ getFlag t.ccr .v = false ∧ getFlag t.ccr .c = false ∧
          t.draws = p.2.draws) ∧
    (∀ m mask s,
      let p := (s.advance (.bset m mask)).eaBit m
      let r := (p.2.read8 p.1).1 ||| mask
      CompletesVia (.bset m mask) s p.2 [] (bitAuto m) [.n, .z, .v] [(p.1, r)] fun t => FlagsNZV8 t r false) ∧
    ∀ m mask s,
      let p := (s.advance (.bclr m mask)).eaBit m
      let r := (p.2.read8 p.1).1 &&& (0xFF - mask)
      CompletesVia (.bclr m mask) s p.2 [] (bitAuto m) [.n, .z, .v] [(p.1, r)] fun t => FlagsNZV8 t r false

/-- O36. For every mask and state: after ANDCC the CCR is the old one AND the mask; after ORCC every flag but X is
its old value OR the mask's bit, and X is as before; CLI clears I and no other flag; no register and no byte
changes. (ORCC leaving X: PRESUMED K10, log entry 18; the flags: PRESUMED K2, log entry 15; its OR: PRESUMED K29,
log entry 39.) [R33, R35, R334, R335, R337] -/
def Obligations.ConditionCodeMasks : Prop :=
    (∀ imm s, Completes (.andcc imm) s [] [.c, .v, .z, .n, .i, .h, .xm, .s] [] fun t => t.ccr = s.ccr &&& imm) ∧
    (∀ imm s, Completes (.orcc imm) s [] [.c, .v, .z, .n, .i, .h, .s] [] fun t =>
      ∀ f, f ≠ .xm → getFlag t.ccr f = (getFlag s.ccr f || getFlag imm f)) ∧
    ∀ s, Completes .cli s [] [.i] [] fun t => getFlag t.ccr .i = false

/-- O37. CLC is 10 FE, CLV 10 FD, SEC 14 01, SEI 14 10, SEV 14 02; for every state each answers a next state in
which its one flag is cleared or set and nothing else changes. [R336, R338, R339, R340, R341] -/
def Obligations.SingleFlagInstructions : Prop :=
    encode .clc = [0x10, 0xFE] ∧ encode .clv = [0x10, 0xFD] ∧ encode .sec = [0x14, 0x01] ∧ encode .sei = [0x14, 0x10] ∧
    encode .sev = [0x14, 0x02] ∧
    (∀ s, Completes .clc s [] [.c] [] fun t => getFlag t.ccr .c = false) ∧
    (∀ s, Completes .clv s [] [.v] [] fun t => getFlag t.ccr .v = false) ∧
    (∀ s, Completes .sec s [] [.c] [] fun t => getFlag t.ccr .c = true) ∧
    (∀ s, Completes .sei s [] [.i] [] fun t => getFlag t.ccr .i = true) ∧
    ∀ s, Completes .sev s [] [.v] [] fun t => getFlag t.ccr .v = true

/-- O38. For every operand form and state the memory byte at the effective address (and no other), A or B becomes
the shifted old value: left 0 or the old C enters at bit 0 and bit 7 leaves into C; right 0, bit 7 or the old C
enters at bit 7 and bit 0 leaves into C; N and Z are the result's, V is N XOR C; nothing else changes but an
auto-modified base. LSLD, ASLD and LSRD do the same to D. (PRESUMED K13, K2, log entries 15, 39.) [R51, R350, R351,
R352, R354, R355, R358, R361, R362, R365] -/
def Obligations.ShiftsAndRotates : Prop :=
    UnaryRule .lsl .lsla .lslb (leftOp fun _ => false) ∧ UnaryRule .asl .asla .aslb (leftOp fun _ => false) ∧
    UnaryRule .rol .rola .rolb (leftOp id) ∧ UnaryRule .asr .asra .asrb (rightOp fun m _ => m.getLsbD 7) ∧
    UnaryRule .lsr .lsra .lsrb (rightOp fun _ _ => false) ∧ UnaryRule .ror .rora .rorb (rightOp fun _ k => k) ∧
    (∀ s, Completes .lsld s [.a, .b] [.n, .z, .v, .c] [] fun t =>
      t.d.toNat = 2 * s.d.toNat % 65536 ∧ getFlag t.ccr .c = s.d.getLsbD 15 ∧
        FlagsNZV16 t t.d (t.d.getLsbD 15 != s.d.getLsbD 15)) ∧
    (∀ s, Completes .asld s [.a, .b] [.n, .z, .v, .c] [] fun t =>
      t.d.toNat = 2 * s.d.toNat % 65536 ∧ getFlag t.ccr .c = s.d.getLsbD 15 ∧
        FlagsNZV16 t t.d (t.d.getLsbD 15 != s.d.getLsbD 15)) ∧
    ∀ s, Completes .lsrd s [.a, .b] [.n, .z, .v, .c] [] fun t =>
      t.d.toNat = s.d.toNat / 2 ∧ getFlag t.ccr .c = s.d.getLsbD 0 ∧ FlagsNZV16 t t.d (s.d.getLsbD 0)

/-- O39. For every state MUL makes D the product of A and B with C bit 7; EMUL makes Y:D the unsigned and EMULS the
signed product of D and Y, with N, Z the product's and C bit 15; nothing else changes, in particular not V. (Flags
PRESUMED K2, log entry 15.) [R390, R391, R392] -/
def Obligations.Multiplications : Prop :=
    (∀ s, Completes .mul s [.a, .b] [.c] [] fun t =>
      t.d.toNat = s.a.toNat * s.b.toNat ∧ getFlag t.ccr .c = t.d.getLsbD 7) ∧
    (∀ s, Completes .emul s [.a, .b, .y] [.n, .z, .c] [] fun t =>
      (t.y ++ t.d).toNat = s.d.toNat * s.y.toNat ∧ getFlag t.ccr .n = t.y.getLsbD 15 ∧
        getFlag t.ccr .z = decide (s.d.toNat * s.y.toNat = 0) ∧ getFlag t.ccr .c = t.d.getLsbD 15) ∧
    ∀ s, Completes .emuls s [.a, .b, .y] [.n, .z, .c] [] fun t =>
      (t.y ++ t.d).toInt = s.d.toInt * s.y.toInt ∧ getFlag t.ccr .n = decide (s.d.toInt * s.y.toInt < 0) ∧
        getFlag t.ccr .z = decide (s.d.toInt * s.y.toInt = 0) ∧ getFlag t.ccr .c = t.d.getLsbD 15

/-- O40. For every state EDIV and EDIVS answer a next state. With a divisor other than 0 and a quotient that fits,
dividend = quotient times divisor plus remainder with the remainder below the divisor (signed: below it in size and
of the dividend's sign or 0), V = C = 0, N and Z the quotient's. With divisor 0, C = 1; with a quotient that does
not fit, C = 0 and V = 1. X and everything but A, B, Y, N, Z, V, C is unchanged. (PRESUMED K11, K25; the free
values: log entry 13; the flags: PRESUMED K2, log entry 15.) [R393, R394, R395] -/
def Obligations.ExtendedDivisions : Prop :=
    (∀ s, Completes .ediv s [.a, .b, .y] [.n, .z, .v, .c] [] fun t =>
      (s.x = 0 → getFlag t.ccr .c = true) ∧
      (s.x ≠ 0 → 65536 * s.x.toNat ≤ (s.y ++ s.d).toNat → getFlag t.ccr .c = false ∧ getFlag t.ccr .v = true) ∧
      ((s.y ++ s.d).toNat < 65536 * s.x.toNat →
        (s.y ++ s.d).toNat = t.y.toNat * s.x.toNat + t.d.toNat ∧ t.d.toNat < s.x.toNat ∧
          FlagsNZV16 t t.y false ∧ getFlag t.ccr .c = false)) ∧
    ∀ s, Completes .edivs s [.a, .b, .y] [.n, .z, .v, .c] [] fun t =>
      let n := (s.y ++ s.d).toInt
      let d := s.x.toInt
      (d = 0 → getFlag t.ccr .c = true) ∧
      (d ≠ 0 → 32767 < n.tdiv d ∨ n.tdiv d < -32768 → getFlag t.ccr .c = false ∧ getFlag t.ccr .v = true) ∧
      (d ≠ 0 → -32768 ≤ n.tdiv d → n.tdiv d ≤ 32767 →
        n = t.y.toInt * d + t.d.toInt ∧ t.d.toInt.natAbs < d.natAbs ∧ (t.d.toInt = 0 ∨ (0 ≤ t.d.toInt ↔ 0 ≤ n)) ∧
          FlagsNZV16 t t.y false ∧ getFlag t.ccr .c = false)

/-- O41. For every state the three divides answer a next state. FDIV with D below X: D * 65536 = quotient * X +
remainder, remainder below X; otherwise X = $FFFF, V = 1, Z = 0, and C tells X = 0. IDIV with X other than 0: D =
quotient * X + remainder; with X = 0: X = $FFFF, C = 1, Z = 0; V is always 0. IDIVS with a quotient that fits: the
signed identity, V = C = 0, N and Z the quotient's; with X = 0, C = 1; for -32768 by -1, C = 0 and V = 1. FDIV and
IDIV leave N. (PRESUMED K11, K25; log entry 13; the flags: PRESUMED K2, log entry 15.) [R393, R396, R397, R398] -/
def Obligations.ShortDivisions : Prop :=
    (∀ s, Completes .fdiv s [.a, .b, .x] [.z, .v, .c] [] fun t =>
      (s.d.toNat < s.x.toNat →
        s.d.toNat * 65536 = t.x.toNat * s.x.toNat + t.d.toNat ∧ t.d.toNat < s.x.toNat ∧
          getFlag t.ccr .c = false ∧ getFlag t.ccr .v = false ∧ getFlag t.ccr .z = decide (t.x = 0)) ∧
      (s.x.toNat ≤ s.d.toNat →
        t.x = 0xFFFF ∧ getFlag t.ccr .c = decide (s.x = 0) ∧ getFlag t.ccr .v = true ∧ getFlag t.ccr .z = false)) ∧
    (∀ s, Completes .idiv s [.a, .b, .x] [.z, .v, .c] [] fun t =>
      getFlag t.ccr .v = false ∧
      (s.x ≠ 0 → s.d.toNat = t.x.toNat * s.x.toNat + t.d.toNat ∧ t.d.toNat < s.x.toNat ∧
        getFlag t.ccr .c = false ∧ getFlag t.ccr .z = decide (t.x = 0)) ∧
      (s.x = 0 → t.x = 0xFFFF ∧ getFlag t.ccr .c = true ∧ getFlag t.ccr .z = false)) ∧
    ∀ s, Completes .idivs s [.a, .b, .x] [.n, .z, .v, .c] [] fun t =>
      let n := s.d.toInt
      let d := s.x.toInt
      (d = 0 → getFlag t.ccr .c = true) ∧
      (n = -32768 → d = -1 → getFlag t.ccr .c = false ∧ getFlag t.ccr .v = true) ∧
      (d ≠ 0 → ¬(n = -32768 ∧ d = -1) →
        n = t.x.toInt * d + t.d.toInt ∧ t.d.toInt.natAbs < d.natAbs ∧ (t.d.toInt = 0 ∨ (0 ≤ t.d.toInt ↔ 0 ≤ n)) ∧
          FlagsNZV16 t t.x false ∧ getFlag t.ccr .c = false)

/-- O42. For every address and state EMACS answers a next state: the four bytes at the address hold the old 32-bit
value plus the signed product of the words at X and Y, modulo 2^32, most significant byte first; V tells that the
exact signed sum does not fit, C the carry out of bit 15, N and Z are the sum's; no other byte, no register and no
other flag changes. (PRESUMED K17, log entry 23; the flags: PRESUMED K2, log entry 15.) [R82, R400] -/
def Obligations.MultiplyAccumulate : Prop :=
    ∀ (ea : Word) (s : State),
    let a := (s.advance (.emacs ea)).read16 s.x
    let b := a.2.read16 s.y
    let hi := b.2.read16 ea
    let lo := hi.2.read16 (ea + 2)
    let acc : BitVec 32 := hi.1 ++ lo.1
    let p := a.1.toInt * b.1.toInt
    let r := acc + BitVec.ofInt 32 p
    Completes (.emacs ea) s [] [.n, .z, .v, .c]
      (wordStores (ea + 2) (r.extractLsb' 0 16) ++ wordStores ea (r.extractLsb' 16 16)) fun t =>
        getFlag t.ccr .n = r.getLsbD 31 ∧ getFlag t.ccr .z = decide (r = 0) ∧
        getFlag t.ccr .v = decide (acc.toInt + p < -2147483648 ∨ 2147483647 < acc.toInt + p) ∧
        getFlag t.ccr .c = decide (65536 ≤ acc.toNat % 65536 + (BitVec.ofInt 32 p).toNat % 65536)

/-- O43. For every indexed form and state the accumulator (A or D), or the memory byte or word at the effective
address, becomes the larger or smaller of the two unsigned values; N, Z, V, C are those of accumulator minus memory
before; an auto-modified base is moved by its step, and no other byte, register or flag changes. [R410, R411, R412,
R413, R414, R415, R416, R417] -/
def Obligations.MinimumAndMaximum : Prop :=
    (∀ f s,
      let p := (s.advance (.maxa f)).eaFull f
      let m := (p.2.read8 p.1).1
      CompletesVia (.maxa f) s p.2 [.a] (fullAuto f) [.n, .z, .v, .c] [] fun t =>
        t.a.toNat = max s.a.toNat m.toNat ∧ SubFlags8 t s.a m (s.a - m)) ∧
    (∀ f s,
      let p := (s.advance (.mina f)).eaFull f
      let m := (p.2.read8 p.1).1
      CompletesVia (.mina f) s p.2 [.a] (fullAuto f) [.n, .z, .v, .c] [] fun t =>
        t.a.toNat = min s.a.toNat m.toNat ∧ SubFlags8 t s.a m (s.a - m)) ∧
    (∀ f s,
      let p := (s.advance (.emaxd f)).eaFull f
      let m := (p.2.read16 p.1).1
      CompletesVia (.emaxd f) s p.2 [.a, .b] (fullAuto f) [.n, .z, .v, .c] [] fun t =>
        t.d.toNat = max s.d.toNat m.toNat ∧ SubFlags16 t s.d m (s.d - m)) ∧
    (∀ f s,
      let p := (s.advance (.emind f)).eaFull f
      let m := (p.2.read16 p.1).1
      CompletesVia (.emind f) s p.2 [.a, .b] (fullAuto f) [.n, .z, .v, .c] [] fun t =>
        t.d.toNat = min s.d.toNat m.toNat ∧ SubFlags16 t s.d m (s.d - m)) ∧
    (∀ f s,
      let p := (s.advance (.maxm f)).eaFull f
      let m := (p.2.read8 p.1).1
      CompletesVia (.maxm f) s p.2 [] (fullAuto f) [.n, .z, .v, .c]
        [(p.1, BitVec.ofNat 8 (max s.a.toNat m.toNat))] fun t =>
        SubFlags8 t s.a m (s.a - m)) ∧
    (∀ f s,
      let p := (s.advance (.minm f)).eaFull f
      let m := (p.2.read8 p.1).1
      CompletesVia (.minm f) s p.2 [] (fullAuto f) [.n, .z, .v, .c]
        [(p.1, BitVec.ofNat 8 (min s.a.toNat m.toNat))] fun t =>
        SubFlags8 t s.a m (s.a - m)) ∧
    (∀ f s,
      let p := (s.advance (.emaxm f)).eaFull f
      let m := (p.2.read16 p.1).1
      CompletesVia (.emaxm f) s p.2 [] (fullAuto f) [.n, .z, .v, .c]
        (wordStores p.1 (BitVec.ofNat 16 (max s.d.toNat m.toNat))) fun t => SubFlags16 t s.d m (s.d - m)) ∧
    ∀ f s,
      let p := (s.advance (.eminm f)).eaFull f
      let m := (p.2.read16 p.1).1
      CompletesVia (.eminm f) s p.2 [] (fullAuto f) [.n, .z, .v, .c]
        (wordStores p.1 (BitVec.ofNat 16 (min s.d.toNat m.toNat))) fun t => SubFlags16 t s.d m (s.d - m)

/-- O44. For every form and state TBL and ETBL answer a next state: with y1 and y2 the two entries read, A or D is
y1 + floor(B * (y2 - y1) / 256), which lies between y1 and y2; N and Z are the result's; on the HCS12 C is bit 7 of
the product, on the M68HC12 it is free; an auto-modified base is moved by its step; V, memory and every other
register are unchanged. (PRESUMED K14 and U10, log entry 20; the flags N and Z: PRESUMED K2, log entry 15.) [R430,
R431] -/
def Obligations.TableInterpolation : Prop :=
    (∀ f s,
      let p := (s.advance (.tbl f)).eaShort f
      let y1 := p.2.read8 p.1
      let y2 := y1.2.read8 (p.1 + 1)
      let prod : Int := (s.b.toNat : Int) * ((y2.1.toNat : Int) - y1.1.toNat)
      CompletesVia (.tbl f) s p.2 [.a] (shortAuto f) [.n, .z, .c] [] fun t =>
        (t.a.toNat : Int) = y1.1.toNat + prod / 256 ∧
        min y1.1.toNat y2.1.toNat ≤ t.a.toNat ∧ t.a.toNat ≤ max y1.1.toNat y2.1.toNat ∧
        getFlag t.ccr .n = t.a.getLsbD 7 ∧ getFlag t.ccr .z = decide (t.a = 0) ∧
        (s.cfg.variant = .hcs12 → getFlag t.ccr .c = decide (prod / 128 % 2 = 1))) ∧
    ∀ f s,
      let p := (s.advance (.etbl f)).eaShort f
      let y1 := p.2.read16 p.1
      let y2 := y1.2.read16 (p.1 + 2)
      let prod : Int := (s.b.toNat : Int) * ((y2.1.toNat : Int) - y1.1.toNat)
      CompletesVia (.etbl f) s p.2 [.a, .b] (shortAuto f) [.n, .z, .c] [] fun t =>
        (t.d.toNat : Int) = y1.1.toNat + prod / 256 ∧
        min y1.1.toNat y2.1.toNat ≤ t.d.toNat ∧ t.d.toNat ≤ max y1.1.toNat y2.1.toNat ∧
        getFlag t.ccr .n = t.d.getLsbD 15 ∧ getFlag t.ccr .z = decide (t.d = 0) ∧
        (s.cfg.variant = .hcs12 → getFlag t.ccr .c = decide (prod / 128 % 2 = 1))

/-- O45. For every offset and state each branch answers a next state: PC is the address after the branch plus the
offset (sign-extended for the short ones) if its condition on C, Z, N, V holds, else the address after the branch;
no register, no flag and no byte changes. (The OR of BHI, BLS and their long forms is a symbol lost from the source,
PRESUMED K29, log entry 39; the offset counts from the next instruction, C4, log entry 40, DEDUCED; unchanged flags:
PRESUMED K2, log entry 15.) [R116, R440] -/
def Obligations.ConditionalBranches : Prop :=
    (∀ rr : Byte,
      BranchRule (.bra rr) (fun _ => true) (rr.signExtend 16) ∧
      BranchRule (.brn rr) (fun _ => false) (rr.signExtend 16) ∧
      BranchRule (.bhi rr) (fun s => !(s.flagC || s.flagZ)) (rr.signExtend 16) ∧
      BranchRule (.bls rr) (fun s => s.flagC || s.flagZ) (rr.signExtend 16) ∧
      BranchRule (.bcc rr) (fun s => !s.flagC) (rr.signExtend 16) ∧
      BranchRule (.bhs rr) (fun s => !s.flagC) (rr.signExtend 16) ∧
      BranchRule (.bcs rr) State.flagC (rr.signExtend 16) ∧
      BranchRule (.blo rr) State.flagC (rr.signExtend 16) ∧
      BranchRule (.bne rr) (fun s => !s.flagZ) (rr.signExtend 16) ∧
      BranchRule (.beq rr) State.flagZ (rr.signExtend 16) ∧
      BranchRule (.bvc rr) (fun s => !s.flagV) (rr.signExtend 16) ∧
      BranchRule (.bvs rr) State.flagV (rr.signExtend 16) ∧
      BranchRule (.bpl rr) (fun s => !s.flagN) (rr.signExtend 16) ∧
      BranchRule (.bmi rr) State.flagN (rr.signExtend 16) ∧
      BranchRule (.bge rr) (fun s => s.flagN == s.flagV) (rr.signExtend 16) ∧
      BranchRule (.blt rr) (fun s => s.flagN != s.flagV) (rr.signExtend 16) ∧
      BranchRule (.bgt rr) (fun s => !(s.flagZ || s.flagN != s.flagV)) (rr.signExtend 16) ∧
      BranchRule (.ble rr) (fun s => s.flagZ || s.flagN != s.flagV) (rr.signExtend 16)) ∧
    ∀ off : Word,
      BranchRule (.lbra off) (fun _ => true) off ∧
      BranchRule (.lbrn off) (fun _ => false) off ∧
      BranchRule (.lbhi off) (fun s => !(s.flagC || s.flagZ)) off ∧
      BranchRule (.lbls off) (fun s => s.flagC || s.flagZ) off ∧
      BranchRule (.lbcc off) (fun s => !s.flagC) off ∧
      BranchRule (.lbhs off) (fun s => !s.flagC) off ∧
      BranchRule (.lbcs off) State.flagC off ∧
      BranchRule (.lblo off) State.flagC off ∧
      BranchRule (.lbne off) (fun s => !s.flagZ) off ∧
      BranchRule (.lbeq off) State.flagZ off ∧
      BranchRule (.lbvc off) (fun s => !s.flagV) off ∧
      BranchRule (.lbvs off) State.flagV off ∧
      BranchRule (.lbpl off) (fun s => !s.flagN) off ∧
      BranchRule (.lbmi off) State.flagN off ∧
      BranchRule (.lbge off) (fun s => s.flagN == s.flagV) off ∧
      BranchRule (.lblt off) (fun s => s.flagN != s.flagV) off ∧
      BranchRule (.lbgt off) (fun s => !(s.flagZ || s.flagN != s.flagV)) off ∧
      BranchRule (.lble off) (fun s => s.flagZ || s.flagN != s.flagV) off

/-- O46. For every operand form, mask, offset and state: BRCLR goes to the address after its last byte plus the
sign-extended offset if every masked bit of the byte is 0, BRSET if every masked bit is 1, else to the address after
it; an auto-modified base is moved by its step and nothing else changes. (BRSET testing for ones and BRCLR for zeros
is C6, the offset from the next instruction C3, log entry 40, DEDUCED; PRESUMED K29, log entry 39; unchanged flags:
PRESUMED K2, log entry 15.) [R60, R116, R480, R481] -/
def Obligations.BitBranches : Prop :=
    (∀ (m : BitOperand) (mask rel : Byte) (s : State),
      let p := (s.advance (.brclr m mask rel)).eaBit m
      let v := (p.2.read8 p.1).1
      ∃ t, exec (.brclr m mask rel) s = .next t ∧ Effect s t (bitAuto m) [] [] ∧ (∀ r, t.reg r = p.2.reg r) ∧
        ((∀ k < 8, mask.getLsbD k = true → v.getLsbD k = false) →
          t.pc = s.pcNext (.brclr m mask rel) + rel.signExtend 16) ∧
        ((∃ k < 8, mask.getLsbD k = true ∧ v.getLsbD k = true) → t.pc = s.pcNext (.brclr m mask rel))) ∧
    ∀ (m : BitOperand) (mask rel : Byte) (s : State),
      let p := (s.advance (.brset m mask rel)).eaBit m
      let v := (p.2.read8 p.1).1
      ∃ t, exec (.brset m mask rel) s = .next t ∧ Effect s t (bitAuto m) [] [] ∧ (∀ r, t.reg r = p.2.reg r) ∧
        ((∀ k < 8, mask.getLsbD k = true → v.getLsbD k = true) →
          t.pc = s.pcNext (.brset m mask rel) + rel.signExtend 16) ∧
        ((∃ k < 8, mask.getLsbD k = true ∧ v.getLsbD k = false) → t.pc = s.pcNext (.brset m mask rel))

/-- O47. For every counter register, 9-bit offset and state: the counter moves by -1, +1 or 0 modulo 256 or 65536,
PC is the address after the instruction plus the signed offset if the new counter is zero (DBEQ, IBEQ, TBEQ) or not
zero (DBNE, IBNE, TBNE), else the address after it; no flag, no byte and no other register changes. (The offset from
the next instruction is C3 against the printed rows of TBEQ and TBNE, log entry 40, DEDUCED; unchanged flags:
PRESUMED K2, log entry 15.) [R116, R485, R486, R487, R488, R489, R490, R491] -/
def Obligations.LoopPrimitives : Prop :=
    LoopRule .dbeq (-1) true ∧ LoopRule .dbne (-1) false ∧ LoopRule .ibeq 1 true ∧ LoopRule .ibne 1 false ∧
    LoopRule .tbeq 0 true ∧ LoopRule .tbne 0 false

/-- O48. For every operand form and state: JMP makes PC the effective address and changes nothing else but an
auto-modified base, which is moved by its step; JSR does so after pushing the address after it, high byte lower, at
the SP found after the address was formed; BSR pushes its return address and goes to it plus the offset; no flag and
no other byte changes. (The address formed before the push: PRESUMED K33, log entry 25; unchanged flags: PRESUMED
K2, log entry 15.) [R60, R495, R496, R497] -/
def Obligations.JumpsAndSubroutineCalls : Prop :=
    (∀ m s,
      let p := (s.advance (.jmp m)).eaRmw m
      ∃ t, exec (.jmp m) s = .next t ∧ t.pc = p.1 ∧ (∀ r, t.reg r = p.2.reg r) ∧ Effect s t (rmwAuto m) [] []) ∧
    (∀ m s,
      let p := (s.advance (.jsr m)).eaMem m
      ∃ t, exec (.jsr m) s = .next t ∧ t.pc = p.1 ∧ t.sp = p.2.sp - 2 ∧ (∀ r, r ≠ .sp → t.reg r = p.2.reg r) ∧
        Effect s t (.sp :: memAuto m) [] (wordStores (p.2.sp - 2) (s.pcNext (.jsr m)))) ∧
    ∀ rel s, ∃ t, exec (.bsr rel) s = .next t ∧ t.pc = s.pcNext (.bsr rel) + rel.signExtend 16 ∧ t.sp = s.sp - 2 ∧
      Effect s t [.sp] [] (wordStores (s.sp - 2) (s.pcNext (.bsr rel)))

/-- O49. RTS is the byte $3D; for every state it answers a next state with PC the word read at SP, SP up by two, and
no other register, no flag and no byte changed. (Unchanged flags: PRESUMED K2, log entry 15.) [R60, R498] -/
def Obligations.ReturnFromSubroutine : Prop :=
    encode .rts = [0x3D] ∧
    ∀ s, ∃ t, exec .rts s = .next t ∧ t.pc = (s.read16 s.sp).1 ∧ t.sp = s.sp + 2 ∧ Effect s t [.sp] [] []

/-- O50. For every operand form and state CALL answers a next state: PC and PPAGE are the target and page of the
operand (both found before anything is pushed; indirect forms find the page in the byte after the pointer), SP is
down by three with the old PPAGE at SP and the return address above it, every other byte (but where PPAGE is
mapped), register but an auto-modified base, which is moved by its step, and flag is unchanged. RTC pulls PPAGE and
then PC. (PRESUMED K19, K33, log entry 25; the page stacked is that before the pushes, log entry 42, DESIGN CHOICE;
unchanged flags: PRESUMED K2, log entry 15.) [R37, R60, R499, R500] -/
def Obligations.CallsInExpandedMemory : Prop :=
    (∀ (ct : CallTarget) (s : State),
      let u := (s.advance (.call ct)).callTarget ct
      let stores := (u.2.2.sp - 3, s.ppage) :: wordStores (u.2.2.sp - 2) (s.pcNext (.call ct))
      ∃ t, exec (.call ct) s = .next t ∧ t.pc = u.1 ∧ t.ppage = u.2.1 ∧ t.sp = u.2.2.sp - 3 ∧
        t.a = s.a ∧ t.b = s.b ∧ t.x = u.2.2.x ∧ t.y = u.2.2.y ∧ t.ccr = s.ccr ∧ t.runState = s.runState ∧
        (Memory.wf s.mem = true → ∀ x, s.cfg.ppageAddr ≠ some x → t.peek x = s.overlay stores x)) ∧
    (∀ (f : IdxDirect) (pg : Byte) (s : State), (s.advance (.call (.idx f pg))).callTarget (.idx f pg) =
      (((s.advance (.call (.idx f pg))).eaDirect f).1, pg, ((s.advance (.call (.idx f pg))).eaDirect f).2)) ∧
    (∀ (a : Word) (pg : Byte) (s : State), ((s.advance (.call (.ext a pg))).callTarget (.ext a pg)) = (a, pg, s.advance (.call (.ext a pg)))) ∧
    (∀ (r : IdxBase) (s : State),
      let u := s.advance (.call (.indD r))
      let ptr := u.idxBase r + s.d
      s.plain ptr = true → s.plain (ptr + 1) = true → s.plain (ptr + 2) = true →
      u.callTarget (.indD r) = (s.peek16 ptr, s.peek (ptr + 2), u)) ∧
    (∀ (r : IdxBase) (n : Word) (s : State),
      let u := s.advance (.call (.ind16 r n))
      let ptr := u.idxBase r + n
      s.plain ptr = true → s.plain (ptr + 1) = true → s.plain (ptr + 2) = true →
      u.callTarget (.ind16 r n) = (s.peek16 ptr, s.peek (ptr + 2), u)) ∧
    ∀ s : State, ∃ t, exec .rtc s = .next t ∧ t.sp = s.sp + 3 ∧ t.ppage = (s.read8 s.sp).1 ∧
      t.a = s.a ∧ t.b = s.b ∧ t.x = s.x ∧ t.y = s.y ∧ t.ccr = s.ccr ∧ t.mem = s.mem ∧ t.runState = s.runState ∧
      (s.cfg.ppageAddr = none → s.plain (s.sp + 1) = true → s.plain (s.sp + 2) = true → t.pc = s.peek16 (s.sp + 1))

/-- O51. For every state with canonical memory and plain RAM at the stacked bytes: RTS run right after a JSR or BSR
has PC after that instruction and SP as before the push; RTC run right after a CALL (PPAGE at no address) has PC
after the CALL, the old PPAGE, and SP as before the pushes. (SP before the pushes is SP after the target address was
formed, which comes first: PRESUMED K33, log entry 25.) [R10, R496, R497, R498, R499, R500] -/
def Obligations.CallsReturn : Prop :=
    (∀ m (s t u : State),
      let p := ((s.advance (.jsr m)).eaMem m).2
      Memory.wf s.mem = true → s.writable (p.sp - 2) = true → s.writable (p.sp - 1) = true →
      exec (.jsr m) s = .next t → exec .rts t = .next u → u.pc = s.pcNext (.jsr m) ∧ u.sp = p.sp) ∧
    (∀ rel (s t u : State),
      Memory.wf s.mem = true → s.writable (s.sp - 2) = true → s.writable (s.sp - 1) = true →
      exec (.bsr rel) s = .next t → exec .rts t = .next u → u.pc = s.pcNext (.bsr rel) ∧ u.sp = s.sp) ∧
    ∀ ct (s t u : State),
      let p := ((s.advance (.call ct)).callTarget ct).2.2
      Memory.wf s.mem = true → s.cfg.ppageAddr = none → s.writable (p.sp - 3) = true →
      s.writable (p.sp - 2) = true → s.writable (p.sp - 1) = true →
      exec (.call ct) s = .next t → exec .rtc t = .next u →
      u.pc = s.pcNext (.call ct) ∧ u.sp = p.sp ∧ u.ppage = s.ppage

/-- O52. For every state MEM answers a next state in which only the byte at Y, X, Y and the flags H, N, Z, V, C
(free, U1) change; X is up by four, Y by one; where the four bytes at X can be read back the byte stored is the
grade by the formula of R521 with the vertical sides of R522. (PRESUMED K15 and D23, log entry 21.) [R521, R522] -/
def Obligations.MembershipGrade : Prop :=
    ∀ s : State, ∃ g : Byte,
    (Completes .mem s [.x, .y] [.h, .n, .z, .v, .c] [(s.y, g)] fun t => t.x = s.x + 4 ∧ t.y = s.y + 1) ∧
    ((∀ k < 4, s.plain (s.x + BitVec.ofNat 16 k) = true) →
      g.toNat = gradeOf s.a.toNat (s.peek s.x).toNat (s.peek (s.x + 1)).toNat (s.peek (s.x + 2)).toNat
        (s.peek (s.x + 3)).toNat)

/-- O53. For every state with plain memory, nothing requested and V clear, and every list of fewer than 256
antecedent offsets standing at X and closed by $FF: REV answers a next state with A the minimum of its old value and
the bytes at Y plus the offsets, X after the end mark, PC after the REV, and only A, X and the free flags H, N, Z, C
changed. With the list $FE c $FF (c an offset whose byte at Y + c lies outside those three) V becomes set, A stays,
X is up by three and the byte at Y + c is raised to A if it was smaller, else no byte changes. For every list of any
rules, whatever A and V at the start, that stores nothing into itself, REV does what R523 says element by element
(revRun): A, V, X and the outputs. If a request that the masks allow shows at the check after some element, REV has
done the elements so far and the exception is taken from there with the address of the REV as return address. If a
reset shows there, what REV has stored holds free values and the reset sequence has run. After 256 elements without
an end mark the step ends with PC still at the REV and the evaluation marked unfinished. (PRESUMED K16, log entry
22; 256 and the mark: log entry 9, DESIGN CHOICE; an interrupt stacks the flags H, N, Z, C as before the
instruction: log entry 41, DESIGN CHOICE; the reset: PRESUMED K9, which bytes it leaves free and that the others are
kept: log entry 14, DESIGN CHOICE.) [R60, R523, R524, R611] -/
def Obligations.RuleEvaluation : Prop :=
    (∀ (offs : List Byte) (s : State), s.allPlain → s.requests = [] → getFlag s.ccr .v = false →
    (∀ o ∈ offs, o ≠ 0xFE ∧ o ≠ 0xFF) → offs.length < 256 → s.holds s.x (offs ++ [0xFF]) →
    Completes .rev s [.a, .x] [.h, .n, .z, .c] [] fun t =>
      t.a.toNat = offs.foldl (fun m o => min m (s.peek (s.y + o.zeroExtend 16)).toNat) s.a.toNat ∧
      t.x = s.x + BitVec.ofNat 16 (offs.length + 1)) ∧
    (∀ (c : Byte) (s : State),
    let out := s.y + c.zeroExtend 16
    s.allPlain → Memory.wf s.mem = true → s.requests = [] → getFlag s.ccr .v = false → c ≠ 0xFE → c ≠ 0xFF →
    s.holds s.x [0xFE, c, 0xFF] → out ≠ s.x → out ≠ s.x + 1 → out ≠ s.x + 2 →
    Completes .rev s [.x] [.h, .n, .z, .v, .c] (if s.peek out < s.a then [(out, s.a)] else []) fun t =>
      t.a = s.a ∧ t.x = s.x + 3 ∧ getFlag t.ccr .v = true) ∧
    (∀ (l : List Byte) (s : State), s.allPlain → Memory.wf s.mem = true → s.requests = [] → (∀ o ∈ l, o ≠ 0xFF) →
      l.length < 256 → s.holds s.x (l ++ [0xFF]) → (s.revRun l).avoids s.x (l.length + 1) →
      Completes .rev s [.a, .x] [.h, .n, .z, .v, .c] (s.revRun l).stores fun t =>
        AtRun s t (s.revRun l) (l.length + 1)) ∧
    (∀ (l : List Byte) (s : State) (r : Requests) (rest : List Requests) (v : Word) (setX : Bool),
      s.allPlain → Memory.wf s.mem = true → s.runState = .running → (∀ o ∈ l, o ≠ 0xFF) → 0 < l.length →
      l.length < 256 → s.holds s.x l → (s.revRun l).avoids s.x l.length →
      s.requests = List.replicate (l.length - 1) noRequests ++ r :: rest → r.noReset → s.takes r v setX →
      InterruptedAt .rev s (s.revRun l) l.length v setX rest) ∧
    (∀ (l : List Byte) (s : State) (r : Requests) (rest : List Requests) (v : Word), s.allPlain →
      Memory.wf s.mem = true → (∀ o ∈ l, o ≠ 0xFF) → 0 < l.length → l.length < 256 → s.holds s.x l →
      (s.revRun l).avoids s.x l.length → s.requests = List.replicate (l.length - 1) noRequests ++ r :: rest →
      s.resetBy r v → AbandonedAt .rev s (s.revRun l) v rest) ∧
    ∀ (l : List Byte) (s : State), s.allPlain → Memory.wf s.mem = true → s.requests = [] → (∀ o ∈ l, o ≠ 0xFF) →
      l.length = 256 → s.holds s.x l → (s.revRun l).avoids s.x l.length →
      Unfinished .rev .rev s (s.revRun l) l.length

/-- O54. For every state with plain memory, nothing requested and V clear, and a rule p $FFFE q $FFFF of 16-bit
addresses at X (q outside the list): REVW answers a next state in which A is the minimum of its old value and the
byte at p, times weight + 1 over 256 if C is set (Y then up by one), the byte at q is raised to A if it was smaller,
V is set, C kept, X up by eight, and nothing else changed but the free flags H, N, Z. For every list of any rules,
whatever A and V at the start, that stores nothing into itself, REVW does what R525 says element by element
(revwRun). Interrupted at the check after some element it has done the elements so far, with the address of the REVW
as return address, or, at a reset, what it has stored holds free values and the reset sequence has run; after 256
elements without an end mark the step ends with PC still at the REVW and the evaluation marked unfinished. (PRESUMED
K16, log entry 22; 256 and the mark: log entry 9, DESIGN CHOICE; an interrupt stacks the flags H, N, Z as before the
instruction: log entry 41, DESIGN CHOICE; the reset: PRESUMED K9, which bytes it leaves free and that the others are
kept: log entry 14, DESIGN CHOICE.) [R60, R524, R525, R611] -/
def Obligations.WeightedRuleEvaluation : Prop :=
    (∀ (p q : Word) (s : State),
    let low := min s.a.toNat (s.peek p).toNat
    let truth := if getFlag s.ccr .c = true then low * ((s.peek s.y).toNat + 1) / 256 else low
    s.allPlain → Memory.wf s.mem = true → s.requests = [] → getFlag s.ccr .v = false →
    p ≠ 0xFFFE → p ≠ 0xFFFF → q ≠ 0xFFFE → q ≠ 0xFFFF →
    s.holds s.x [p.extractLsb' 8 8, p.extractLsb' 0 8, 0xFF, 0xFE, q.extractLsb' 8 8, q.extractLsb' 0 8, 0xFF, 0xFF] →
    (∀ k < 8, q ≠ s.x + BitVec.ofNat 16 k) →
    Completes .revw s [.a, .x, .y] [.h, .n, .z, .v]
      (if (s.peek q).toNat < truth then [(q, BitVec.ofNat 8 truth)] else []) fun t =>
        t.a.toNat = truth ∧ t.x = s.x + 8 ∧ getFlag t.ccr .v = true ∧
        t.y = (if getFlag s.ccr .c = true then s.y + 1 else s.y)) ∧
    (∀ (l : List Word) (s : State), s.allPlain → Memory.wf s.mem = true → s.requests = [] → (∀ e ∈ l, e ≠ 0xFFFF) →
      l.length < 256 → s.holds s.x (ruleWordBytes (l ++ [0xFFFF])) → (s.revwRun l).avoids s.x (2 * l.length + 2) →
      Completes .revw s [.a, .x, .y] [.h, .n, .z, .v] (s.revwRun l).stores fun t =>
        AtRun s t (s.revwRun l) (2 * l.length + 2)) ∧
    (∀ (l : List Word) (s : State) (r : Requests) (rest : List Requests) (v : Word) (setX : Bool),
      s.allPlain → Memory.wf s.mem = true → s.runState = .running → (∀ e ∈ l, e ≠ 0xFFFF) → 0 < l.length →
      l.length < 256 → s.holds s.x (ruleWordBytes l) → (s.revwRun l).avoids s.x (2 * l.length) →
      s.requests = List.replicate (l.length - 1) noRequests ++ r :: rest → r.noReset → s.takes r v setX →
      InterruptedAt .revw s (s.revwRun l) (2 * l.length) v setX rest) ∧
    (∀ (l : List Word) (s : State) (r : Requests) (rest : List Requests) (v : Word), s.allPlain →
      Memory.wf s.mem = true → (∀ e ∈ l, e ≠ 0xFFFF) → 0 < l.length → l.length < 256 → s.holds s.x (ruleWordBytes l) →
      (s.revwRun l).avoids s.x (2 * l.length) → s.requests = List.replicate (l.length - 1) noRequests ++ r :: rest →
      s.resetBy r v → AbandonedAt .revw s (s.revwRun l) v rest) ∧
    ∀ (l : List Word) (s : State), s.allPlain → Memory.wf s.mem = true → s.requests = [] → (∀ e ∈ l, e ≠ 0xFFFF) →
      l.length = 256 → s.holds s.x (ruleWordBytes l) → (s.revwRun l).avoids s.x (2 * l.length) →
      Unfinished .revw .revw s (s.revwRun l) (2 * l.length)

/-- O55. For every state with plain memory, nothing requested and B other than 0: WAV answers a next state with Y:D
the sum of the B products S*F of the bytes at X and Y, X the sum of the weights F, Z set, H, N, V, C free and
nothing else changed; wavr first pulls the sum of weights and the two words of the sum of products, six bytes, and
adds the rest to them, modulo 2^32 and 2^16. If a request that the masks allow shows at the check of some element,
the elements before it are counted in B, X and Y, the sum of weights and the two words of the sum of products so far
are stacked in six bytes, and the exception is taken from there with the address of the byte $3C as return address
(the second byte of WAV, the wavr itself). With B = 0 both are refused (D21). (PRESUMED K16 and, for the flags, K2,
log entries 10, 15, 22; an interrupt stacks the flags as before the instruction: log entry 41, DESIGN CHOICE.) [R60,
R527, R528, R529] -/
def Obligations.WeightedAverageSums : Prop :=
    (∀ s : State, s.allPlain → s.requests = [] → s.b ≠ 0 →
      Completes .wav s [.a, .b, .x, .y] [.h, .n, .z, .v, .c] [] fun t =>
        (t.y ++ t.d).toNat = s.sumProducts s.b.toNat s.x s.y ∧ t.x.toNat = s.sumWeights s.b.toNat s.y ∧
          getFlag t.ccr .z = true) ∧
    (∀ s : State, s.allPlain → s.requests = [] → s.b ≠ 0 →
      Completes .wavr s [.a, .b, .x, .y, .sp] [.h, .n, .z, .v, .c] [] fun t =>
        (t.y ++ t.d).toNat =
          ((s.peek16 (s.sp + 2) ++ s.peek16 (s.sp + 4)).toNat + s.sumProducts s.b.toNat s.x s.y) % 4294967296 ∧
        t.x.toNat = ((s.peek16 s.sp).toNat + s.sumWeights s.b.toNat s.y) % 65536 ∧ t.sp = s.sp + 6 ∧
        getFlag t.ccr .z = true) ∧
    (∀ (n : Nat) (s : State) (r : Requests) (rest : List Requests) (v : Word) (setX : Bool),
      s.allPlain → Memory.wf s.mem = true → s.runState = .running → n < s.b.toNat →
      s.requests = List.replicate n noRequests ++ r :: rest → r.noReset → s.takes r v setX →
      ∃ u t, exec .wav s = .next t ∧
        Effect s u [.b, .x, .y, .sp] [] (sumStores s.sp (BitVec.ofNat 32 (s.sumProducts n s.x s.y))
          (BitVec.ofNat 16 (s.sumWeights n s.y))) ∧
        u.b.toNat = s.b.toNat - n ∧ u.x = s.x + BitVec.ofNat 16 n ∧ u.y = s.y + BitVec.ofNat 16 n ∧ u.sp = s.sp - 6 ∧
        TakesException u t (s.pc + 1) v setX ∧ t.requests = rest) ∧
    (∀ (n : Nat) (s : State) (r : Requests) (rest : List Requests) (v : Word) (setX : Bool),
      let sop := s.peek16 (s.sp + 2) ++ s.peek16 (s.sp + 4)
      s.allPlain → Memory.wf s.mem = true → s.runState = .running → n < s.b.toNat →
      s.requests = List.replicate n noRequests ++ r :: rest → r.noReset → s.takes r v setX →
      ∃ u t, exec .wavr s = .next t ∧
        Effect s u [.b, .x, .y] [] (sumStores (s.sp + 6) (sop + BitVec.ofNat 32 (s.sumProducts n s.x s.y))
          (s.peek16 s.sp + BitVec.ofNat 16 (s.sumWeights n s.y))) ∧
        u.b.toNat = s.b.toNat - n ∧ u.x = s.x + BitVec.ofNat 16 n ∧ u.y = s.y + BitVec.ofNat 16 n ∧
        TakesException u t s.pc v setX ∧ t.requests = rest) ∧
    ∀ s : State, s.b = 0 → exec .wav s = .refused .wavCountZero ∧ exec .wavr s = .refused .wavCountZero

/-- O56. For every running state SWI and TRAP with any number answer a next state: the frame of R544 with the
address after the instruction and the CCR as it was, SP down by nine, I set, PC the word at the vector (where it can
be read back), still running, and no other register, flag or byte changed. (Vectors PRESUMED K8, log entry 17; the
return address of TRAP and its one vector PRESUMED K27, log entry 33; the vector is read after the frame is stacked,
R570, log entry 38.) [R540, R541, R544, R570, R571, R573] -/
def Obligations.SoftwareExceptions : Prop :=
    ∀ s : State, s.runState = .running →
    (∃ t, exec .swi s = .next t ∧ TakesException s t (s.pcNext .swi) s.cfg.vec.swi false) ∧
    ∀ tn, ∃ t, exec (.trap tn) s = .next t ∧ TakesException s t (s.pcNext (.trap tn)) s.cfg.vec.trap false

/-- O57. For every state RTI answers a next state with SP up by nine and no byte changed; where the nine bytes can
be read back, CCR is the first (X only if it was set before), then B, A, X, Y and PC, the words high byte first.
(PRESUMED K10, log entry 18; the flags: PRESUMED K2, log entry 15; the order of the pulls and SP up by nine follow
C2 against the printed RTI row, log entry 40, DEDUCED.) [R35, R542, R544] -/
def Obligations.ReturnFromInterrupt : Prop :=
    ∀ s : State, ∃ t, exec .rti s = .next t ∧ t.sp = s.sp + 9 ∧
    Effect s t [.a, .b, .x, .y, .sp] [.c, .v, .z, .n, .i, .h, .xm, .s] [] ∧
    ((∀ k < 9, s.plain (s.sp + BitVec.ofNat 16 k) = true) →
      t.ccr = s.written8 .ccr (s.peek s.sp) ∧ t.b = s.peek (s.sp + 1) ∧ t.a = s.peek (s.sp + 2) ∧
        t.x = s.peek16 (s.sp + 3) ∧ t.y = s.peek16 (s.sp + 5) ∧ t.pc = s.peek16 (s.sp + 7))

/-- O58. For every running state with canonical memory and plain RAM under the nine frame bytes: after SWI and then
RTI, A, B, X, Y, SP and CCR are as before and PC is after the SWI. (The order of the pulls is C2, log entry 40,
DEDUCED; X: PRESUMED K10, log entry 18.) [R540, R542, R544, R570, R576] -/
def Obligations.RtiUndoesSwi : Prop :=
    ∀ s t u : State, s.runState = .running → Memory.wf s.mem = true → s.frameWritable (s.sp - 9) →
    exec .swi s = .next t → exec .rti t = .next u →
    u.a = s.a ∧ u.b = s.b ∧ u.x = s.x ∧ u.y = s.y ∧ u.sp = s.sp ∧ u.ccr = s.ccr ∧ u.pc = s.pcNext .swi

/-- O59. For every state WAI answers a Waiting state, STOP with S clear a Stopped state, each with the frame of R544
below SP, the address after the instruction stacked, and no other register, flag or byte changed; STOP with S set
only moves PC; BGND moves PC and, where the debug system is enabled, enters Background. (PRESUMED K21, log entry 27;
K20, log entry 26; that WAI, STOP and BGND change no flag: PRESUMED K2, log entry 15.) [R34, R60, R544, R545, R546,
R547, R548] -/
def Obligations.WaitStopAndBackground : Prop :=
    (∀ s : State, ∃ t, exec .wai s = .next t ∧ t.pc = s.pcNext .wai ∧ t.sp = s.sp - 9 ∧ t.runState = .waiting ∧
      Effect s { t with runState := s.runState } [.sp] [] (s.frameStores (s.pcNext .wai))) ∧
    (∀ s : State, getFlag s.ccr .s = true → exec .stop s = .next { s with pc := s.pc + 2 }) ∧
    (∀ s : State, getFlag s.ccr .s = false →
      ∃ t, exec .stop s = .next t ∧ t.pc = s.pcNext .stop ∧ t.sp = s.sp - 9 ∧ t.runState = .stopped ∧
        Effect s { t with runState := s.runState } [.sp] [] (s.frameStores (s.pcNext .stop))) ∧
    (∀ s : State, s.cfg.bdmEnabled = true →
      exec .bgnd s = .next { s with pc := s.pc + 1, runState := .background }) ∧
    ∀ s : State, s.cfg.bdmEnabled = false → exec .bgnd s = .next { s with pc := s.pc + 1 }

/-- O60. NOP is the byte $A7; for every state it answers the same state with PC up by one. (That no flag changes is
PRESUMED K2, log entry 15.) [R60, R543] -/
def Obligations.NoOperation : Prop :=
    encode .nop = [0xA7] ∧ ∀ s : State, exec .nop s = .next { s with pc := s.pc + 1 }
end

