-- ==== Sys2Proof/Laws/Memory.lean ====
section
/-!
SUPPORT. The laws of memory: a read after a write, and the canonical form that every write keeps.
-/

namespace Sys2Proof.Machine

@[simp] theorem Memory.read_nil (a : Nat) : Memory.read [] a = Memory.blank := rfl

/-- The addresses of a canonical memory lie above the first one. -/
theorem Memory.wf_cons {c : Host.Cell} {m : Memory} :
    Memory.wf (c :: m) = true ↔
      c.1 < 65536 ∧ c.2 ≠ Memory.blank ∧ Memory.wf m = true ∧ ∀ d ∈ m, c.1 < d.1 := by
  induction m generalizing c with
  | nil => simp [Memory.wf]
  | cons d rest ih =>
    simp only [Memory.wf, Bool.and_eq_true, decide_eq_true_eq, List.mem_cons, forall_eq_or_imp]
    constructor
    · rintro ⟨⟨h1, h2⟩, h3⟩
      have h4 := ih.mp h3
      exact ⟨by omega, h2, h3, h1, fun e he => by have := h4.2.2.2 e he; omega⟩
    · rintro ⟨-, h2, h3, h1, -⟩
      exact ⟨⟨h1, h2⟩, h3⟩

/-- Below the first address a canonical memory is blank. -/
theorem Memory.read_below {m : Memory} {a : Nat} (h : ∀ d ∈ m, a < d.1) : Memory.read m a = Memory.blank := by
  cases m with
  | nil => rfl
  | cons c rest =>
    have := h c (by simp)
    simp [Memory.read, show c.1 ≠ a by omega, this]

/-- What `Memory.cons` reads, before cells with higher addresses. -/
theorem Memory.read_cons_op {m : Memory} {a : Nat} (v : Byte) (h : ∀ d ∈ m, a < d.1) (x : Nat) :
    Memory.read (Memory.cons a v m) x = if x = a then v else Memory.read m x := by
  unfold Memory.cons
  by_cases hv : v = Memory.blank
  · by_cases hx : x = a
    · simp [hv, hx, Memory.read_below h]
    · simp [hv, hx]
  · by_cases hx : x = a
    · simp [hv, hx, Memory.read]
    · by_cases hlt : x < a
      · simp [hv, hx, Memory.read, Ne.symm hx, hlt, Memory.read_below (m := m) (a := x) fun d hd => by
          have := h d hd; omega]
      · simp [hv, hx, Memory.read, Ne.symm hx, hlt]

/-- `Memory.cons` keeps the canonical form before cells with higher addresses. -/
theorem Memory.wf_cons_op {m : Memory} {a : Nat} (v : Byte) (ha : a < 65536) (hm : Memory.wf m = true)
    (h : ∀ d ∈ m, a < d.1) : Memory.wf (Memory.cons a v m) = true := by
  unfold Memory.cons
  by_cases hv : v = Memory.blank
  · simp [hv, hm]
  · simp only [hv, if_false]
    exact Memory.wf_cons.mpr ⟨ha, hv, hm, h⟩

/-- The addresses of a written memory are old ones or the one written. -/
theorem Memory.mem_write {m : Memory} {a : Nat} {v : Byte} {c : Host.Cell} (h : c ∈ Memory.write m a v) :
    c.1 = a ∨ c ∈ m := by
  induction m with
  | nil =>
    simp only [Memory.write, Memory.cons] at h
    split at h <;> simp_all
  | cons d rest ih =>
    simp only [Memory.write, Memory.cons] at h
    split at h
    · split at h <;> simp_all
      rcases h with h | h
      · exact .inl (by rw [h])
      · exact .inr (.inr h)
    · split at h
      · split at h <;> simp_all
        rcases h with h | h | h
        · exact .inl (by rw [h])
        · exact .inr (.inl h)
        · exact .inr (.inr h)
      · rcases List.mem_cons.mp h with h | h
        · exact .inr (by simp [h])
        · rcases ih h with h | h
          · exact .inl h
          · exact .inr (by simp [h])

/-- A write keeps the canonical form. -/
theorem Memory.wf_write {m : Memory} {a : Nat} {v : Byte} (ha : a < 65536) (hm : Memory.wf m = true) :
    Memory.wf (Memory.write m a v) = true := by
  induction m with
  | nil => exact Memory.wf_cons_op v ha rfl (by simp)
  | cons c rest ih =>
    obtain ⟨h1, h2, h3, h4⟩ := Memory.wf_cons.mp hm
    simp only [Memory.write]
    split
    · exact Memory.wf_cons_op v ha h3 (by intro d hd; have := h4 d hd; omega)
    · split
      · refine Memory.wf_cons_op v ha hm ?_
        intro d hd
        rcases List.mem_cons.mp hd with rfl | hd
        · assumption
        · have := h4 d hd; omega
      · refine Memory.wf_cons.mpr ⟨h1, h2, ih h3, ?_⟩
        intro d hd
        rcases Memory.mem_write hd with h | h
        · omega
        · exact h4 d h

/-- A read after a write, on a canonical memory or not: the cells before the written place decide nothing. -/
theorem Memory.read_write {m : Memory} {a : Nat} {v : Byte} (hm : Memory.wf m = true) (x : Nat) :
    Memory.read (Memory.write m a v) x = if x = a then v else Memory.read m x := by
  induction m with
  | nil => exact Memory.read_cons_op v (by simp) x
  | cons c rest ih =>
    obtain ⟨h1, h2, h3, h4⟩ := Memory.wf_cons.mp hm
    simp only [Memory.write]
    split
    · rename_i hc
      rw [Memory.read_cons_op v (by intro d hd; have := h4 d hd; omega) x]
      by_cases hx : x = a
      · simp [hx]
      · simp only [hx, if_false, Memory.read, show c.1 ≠ x by omega]
        split
        · exact Memory.read_below (by intro d hd; have := h4 d hd; omega)
        · rfl
    · split
      · refine Memory.read_cons_op v ?_ x
        intro d hd
        rcases List.mem_cons.mp hd with rfl | hd
        · assumption
        · have := h4 d hd; omega
      · by_cases hx : c.1 = x
        · have : x ≠ a := by omega
          simp [Memory.read, hx, this]
        · by_cases hlt : x < c.1
          · have : x ≠ a := by omega
            simp [Memory.read, hx, hlt, this]
          · simp [Memory.read, hx, hlt, ih h3]

end Sys2Proof.Machine
end

