-- ==== Sys2Proof/Laws/State.lean ====
section
/-!
SUPPORT. One lemma per field per update of State, so that no later proof unfolds a record update.
-/

namespace Sys2Proof.Machine

@[simp] theorem State.advance_a (s : State) (i : Instr) : (s.advance i).a = s.a := rfl
@[simp] theorem State.advance_b (s : State) (i : Instr) : (s.advance i).b = s.b := rfl
@[simp] theorem State.advance_x (s : State) (i : Instr) : (s.advance i).x = s.x := rfl
@[simp] theorem State.advance_y (s : State) (i : Instr) : (s.advance i).y = s.y := rfl
@[simp] theorem State.advance_sp (s : State) (i : Instr) : (s.advance i).sp = s.sp := rfl
@[simp] theorem State.advance_pc (s : State) (i : Instr) : (s.advance i).pc = s.pc + BitVec.ofNat 16 i.length := rfl
@[simp] theorem State.advance_ccr (s : State) (i : Instr) : (s.advance i).ccr = s.ccr := rfl
@[simp] theorem State.advance_ppage (s : State) (i : Instr) : (s.advance i).ppage = s.ppage := rfl
@[simp] theorem State.advance_mem (s : State) (i : Instr) : (s.advance i).mem = s.mem := rfl
@[simp] theorem State.advance_runState (s : State) (i : Instr) : (s.advance i).runState = s.runState := rfl
@[simp] theorem State.advance_requests (s : State) (i : Instr) : (s.advance i).requests = s.requests := rfl
@[simp] theorem State.advance_queue (s : State) (i : Instr) : (s.advance i).queue = s.queue := rfl
@[simp] theorem State.advance_stale (s : State) (i : Instr) : (s.advance i).stale = s.stale := rfl
@[simp] theorem State.advance_progress (s : State) (i : Instr) : (s.advance i).progress = s.progress := rfl
@[simp] theorem State.advance_ruleStores (s : State) (i : Instr) : (s.advance i).ruleStores = s.ruleStores := rfl
@[simp] theorem State.advance_draws (s : State) (i : Instr) : (s.advance i).draws = s.draws := rfl
@[simp] theorem State.advance_cfg (s : State) (i : Instr) : (s.advance i).cfg = s.cfg := rfl

@[simp] theorem State.setA_a (s : State) (p : Byte × Byte) : (s.setA p).a = p.1 := rfl
@[simp] theorem State.setA_b (s : State) (p : Byte × Byte) : (s.setA p).b = s.b := rfl
@[simp] theorem State.setA_x (s : State) (p : Byte × Byte) : (s.setA p).x = s.x := rfl
@[simp] theorem State.setA_y (s : State) (p : Byte × Byte) : (s.setA p).y = s.y := rfl
@[simp] theorem State.setA_sp (s : State) (p : Byte × Byte) : (s.setA p).sp = s.sp := rfl
@[simp] theorem State.setA_pc (s : State) (p : Byte × Byte) : (s.setA p).pc = s.pc := rfl
@[simp] theorem State.setA_ccr (s : State) (p : Byte × Byte) : (s.setA p).ccr = p.2 := rfl
@[simp] theorem State.setA_ppage (s : State) (p : Byte × Byte) : (s.setA p).ppage = s.ppage := rfl
@[simp] theorem State.setA_mem (s : State) (p : Byte × Byte) : (s.setA p).mem = s.mem := rfl
@[simp] theorem State.setA_runState (s : State) (p : Byte × Byte) : (s.setA p).runState = s.runState := rfl
@[simp] theorem State.setA_requests (s : State) (p : Byte × Byte) : (s.setA p).requests = s.requests := rfl
@[simp] theorem State.setA_queue (s : State) (p : Byte × Byte) : (s.setA p).queue = s.queue := rfl
@[simp] theorem State.setA_stale (s : State) (p : Byte × Byte) : (s.setA p).stale = s.stale := rfl
@[simp] theorem State.setA_progress (s : State) (p : Byte × Byte) : (s.setA p).progress = s.progress := rfl
@[simp] theorem State.setA_ruleStores (s : State) (p : Byte × Byte) : (s.setA p).ruleStores = s.ruleStores := rfl
@[simp] theorem State.setA_draws (s : State) (p : Byte × Byte) : (s.setA p).draws = s.draws := rfl
@[simp] theorem State.setA_cfg (s : State) (p : Byte × Byte) : (s.setA p).cfg = s.cfg := rfl

@[simp] theorem State.setB_a (s : State) (p : Byte × Byte) : (s.setB p).a = s.a := rfl
@[simp] theorem State.setB_b (s : State) (p : Byte × Byte) : (s.setB p).b = p.1 := rfl
@[simp] theorem State.setB_x (s : State) (p : Byte × Byte) : (s.setB p).x = s.x := rfl
@[simp] theorem State.setB_y (s : State) (p : Byte × Byte) : (s.setB p).y = s.y := rfl
@[simp] theorem State.setB_sp (s : State) (p : Byte × Byte) : (s.setB p).sp = s.sp := rfl
@[simp] theorem State.setB_pc (s : State) (p : Byte × Byte) : (s.setB p).pc = s.pc := rfl
@[simp] theorem State.setB_ccr (s : State) (p : Byte × Byte) : (s.setB p).ccr = p.2 := rfl
@[simp] theorem State.setB_ppage (s : State) (p : Byte × Byte) : (s.setB p).ppage = s.ppage := rfl
@[simp] theorem State.setB_mem (s : State) (p : Byte × Byte) : (s.setB p).mem = s.mem := rfl
@[simp] theorem State.setB_runState (s : State) (p : Byte × Byte) : (s.setB p).runState = s.runState := rfl
@[simp] theorem State.setB_requests (s : State) (p : Byte × Byte) : (s.setB p).requests = s.requests := rfl
@[simp] theorem State.setB_queue (s : State) (p : Byte × Byte) : (s.setB p).queue = s.queue := rfl
@[simp] theorem State.setB_stale (s : State) (p : Byte × Byte) : (s.setB p).stale = s.stale := rfl
@[simp] theorem State.setB_progress (s : State) (p : Byte × Byte) : (s.setB p).progress = s.progress := rfl
@[simp] theorem State.setB_ruleStores (s : State) (p : Byte × Byte) : (s.setB p).ruleStores = s.ruleStores := rfl
@[simp] theorem State.setB_draws (s : State) (p : Byte × Byte) : (s.setB p).draws = s.draws := rfl
@[simp] theorem State.setB_cfg (s : State) (p : Byte × Byte) : (s.setB p).cfg = s.cfg := rfl

@[simp] theorem State.setD_a (s : State) (v : Word) : (s.setD v).a = v.extractLsb' 8 8 := rfl
@[simp] theorem State.setD_b (s : State) (v : Word) : (s.setD v).b = v.extractLsb' 0 8 := rfl
@[simp] theorem State.setD_x (s : State) (v : Word) : (s.setD v).x = s.x := rfl
@[simp] theorem State.setD_y (s : State) (v : Word) : (s.setD v).y = s.y := rfl
@[simp] theorem State.setD_sp (s : State) (v : Word) : (s.setD v).sp = s.sp := rfl
@[simp] theorem State.setD_pc (s : State) (v : Word) : (s.setD v).pc = s.pc := rfl
@[simp] theorem State.setD_ccr (s : State) (v : Word) : (s.setD v).ccr = s.ccr := rfl
@[simp] theorem State.setD_ppage (s : State) (v : Word) : (s.setD v).ppage = s.ppage := rfl
@[simp] theorem State.setD_mem (s : State) (v : Word) : (s.setD v).mem = s.mem := rfl
@[simp] theorem State.setD_runState (s : State) (v : Word) : (s.setD v).runState = s.runState := rfl
@[simp] theorem State.setD_requests (s : State) (v : Word) : (s.setD v).requests = s.requests := rfl
@[simp] theorem State.setD_queue (s : State) (v : Word) : (s.setD v).queue = s.queue := rfl
@[simp] theorem State.setD_stale (s : State) (v : Word) : (s.setD v).stale = s.stale := rfl
@[simp] theorem State.setD_progress (s : State) (v : Word) : (s.setD v).progress = s.progress := rfl
@[simp] theorem State.setD_ruleStores (s : State) (v : Word) : (s.setD v).ruleStores = s.ruleStores := rfl
@[simp] theorem State.setD_draws (s : State) (v : Word) : (s.setD v).draws = s.draws := rfl
@[simp] theorem State.setD_cfg (s : State) (v : Word) : (s.setD v).cfg = s.cfg := rfl

@[simp] theorem State.setDFlags_a (s : State) (p : Word × Byte) : (s.setDFlags p).a = p.1.extractLsb' 8 8 := rfl
@[simp] theorem State.setDFlags_b (s : State) (p : Word × Byte) : (s.setDFlags p).b = p.1.extractLsb' 0 8 := rfl
@[simp] theorem State.setDFlags_x (s : State) (p : Word × Byte) : (s.setDFlags p).x = s.x := rfl
@[simp] theorem State.setDFlags_y (s : State) (p : Word × Byte) : (s.setDFlags p).y = s.y := rfl
@[simp] theorem State.setDFlags_sp (s : State) (p : Word × Byte) : (s.setDFlags p).sp = s.sp := rfl
@[simp] theorem State.setDFlags_pc (s : State) (p : Word × Byte) : (s.setDFlags p).pc = s.pc := rfl
@[simp] theorem State.setDFlags_ccr (s : State) (p : Word × Byte) : (s.setDFlags p).ccr = p.2 := rfl
@[simp] theorem State.setDFlags_ppage (s : State) (p : Word × Byte) : (s.setDFlags p).ppage = s.ppage := rfl
@[simp] theorem State.setDFlags_mem (s : State) (p : Word × Byte) : (s.setDFlags p).mem = s.mem := rfl
@[simp] theorem State.setDFlags_runState (s : State) (p : Word × Byte) : (s.setDFlags p).runState = s.runState := rfl
@[simp] theorem State.setDFlags_requests (s : State) (p : Word × Byte) : (s.setDFlags p).requests = s.requests := rfl
@[simp] theorem State.setDFlags_queue (s : State) (p : Word × Byte) : (s.setDFlags p).queue = s.queue := rfl
@[simp] theorem State.setDFlags_stale (s : State) (p : Word × Byte) : (s.setDFlags p).stale = s.stale := rfl
@[simp] theorem State.setDFlags_progress (s : State) (p : Word × Byte) : (s.setDFlags p).progress = s.progress := rfl
@[simp] theorem State.setDFlags_ruleStores (s : State) (p : Word × Byte) : (s.setDFlags p).ruleStores = s.ruleStores := rfl
@[simp] theorem State.setDFlags_draws (s : State) (p : Word × Byte) : (s.setDFlags p).draws = s.draws := rfl
@[simp] theorem State.setDFlags_cfg (s : State) (p : Word × Byte) : (s.setDFlags p).cfg = s.cfg := rfl

@[simp] theorem State.setCcr_a (s : State) (v : Byte) : (s.setCcr v).a = s.a := rfl
@[simp] theorem State.setCcr_b (s : State) (v : Byte) : (s.setCcr v).b = s.b := rfl
@[simp] theorem State.setCcr_x (s : State) (v : Byte) : (s.setCcr v).x = s.x := rfl
@[simp] theorem State.setCcr_y (s : State) (v : Byte) : (s.setCcr v).y = s.y := rfl
@[simp] theorem State.setCcr_sp (s : State) (v : Byte) : (s.setCcr v).sp = s.sp := rfl
@[simp] theorem State.setCcr_pc (s : State) (v : Byte) : (s.setCcr v).pc = s.pc := rfl
@[simp] theorem State.setCcr_ccr (s : State) (v : Byte) : (s.setCcr v).ccr = v := rfl
@[simp] theorem State.setCcr_ppage (s : State) (v : Byte) : (s.setCcr v).ppage = s.ppage := rfl
@[simp] theorem State.setCcr_mem (s : State) (v : Byte) : (s.setCcr v).mem = s.mem := rfl
@[simp] theorem State.setCcr_runState (s : State) (v : Byte) : (s.setCcr v).runState = s.runState := rfl
@[simp] theorem State.setCcr_requests (s : State) (v : Byte) : (s.setCcr v).requests = s.requests := rfl
@[simp] theorem State.setCcr_queue (s : State) (v : Byte) : (s.setCcr v).queue = s.queue := rfl
@[simp] theorem State.setCcr_stale (s : State) (v : Byte) : (s.setCcr v).stale = s.stale := rfl
@[simp] theorem State.setCcr_progress (s : State) (v : Byte) : (s.setCcr v).progress = s.progress := rfl
@[simp] theorem State.setCcr_ruleStores (s : State) (v : Byte) : (s.setCcr v).ruleStores = s.ruleStores := rfl
@[simp] theorem State.setCcr_draws (s : State) (v : Byte) : (s.setCcr v).draws = s.draws := rfl
@[simp] theorem State.setCcr_cfg (s : State) (v : Byte) : (s.setCcr v).cfg = s.cfg := rfl

@[simp] theorem State.refill_a (s : State) : (s.refill).a = s.a := rfl
@[simp] theorem State.refill_b (s : State) : (s.refill).b = s.b := rfl
@[simp] theorem State.refill_x (s : State) : (s.refill).x = s.x := rfl
@[simp] theorem State.refill_y (s : State) : (s.refill).y = s.y := rfl
@[simp] theorem State.refill_sp (s : State) : (s.refill).sp = s.sp := rfl
@[simp] theorem State.refill_pc (s : State) : (s.refill).pc = s.pc := rfl
@[simp] theorem State.refill_ccr (s : State) : (s.refill).ccr = s.ccr := rfl
@[simp] theorem State.refill_ppage (s : State) : (s.refill).ppage = s.ppage := rfl
@[simp] theorem State.refill_mem (s : State) : (s.refill).mem = s.mem := rfl
@[simp] theorem State.refill_runState (s : State) : (s.refill).runState = s.runState := rfl
@[simp] theorem State.refill_requests (s : State) : (s.refill).requests = s.requests := rfl
@[simp] theorem State.refill_queue (s : State) : (s.refill).queue = [] := rfl
@[simp] theorem State.refill_stale (s : State) : (s.refill).stale = [] := rfl
@[simp] theorem State.refill_progress (s : State) : (s.refill).progress = s.progress := rfl
@[simp] theorem State.refill_ruleStores (s : State) : (s.refill).ruleStores = s.ruleStores := rfl
@[simp] theorem State.refill_draws (s : State) : (s.refill).draws = s.draws := rfl
@[simp] theorem State.refill_cfg (s : State) : (s.refill).cfg = s.cfg := rfl

@[simp] theorem State.goto_a (s : State) (v : Word) : (s.goto v).a = s.a := rfl
@[simp] theorem State.goto_b (s : State) (v : Word) : (s.goto v).b = s.b := rfl
@[simp] theorem State.goto_x (s : State) (v : Word) : (s.goto v).x = s.x := rfl
@[simp] theorem State.goto_y (s : State) (v : Word) : (s.goto v).y = s.y := rfl
@[simp] theorem State.goto_sp (s : State) (v : Word) : (s.goto v).sp = s.sp := rfl
@[simp] theorem State.goto_pc (s : State) (v : Word) : (s.goto v).pc = v := rfl
@[simp] theorem State.goto_ccr (s : State) (v : Word) : (s.goto v).ccr = s.ccr := rfl
@[simp] theorem State.goto_ppage (s : State) (v : Word) : (s.goto v).ppage = s.ppage := rfl
@[simp] theorem State.goto_mem (s : State) (v : Word) : (s.goto v).mem = s.mem := rfl
@[simp] theorem State.goto_runState (s : State) (v : Word) : (s.goto v).runState = s.runState := rfl
@[simp] theorem State.goto_requests (s : State) (v : Word) : (s.goto v).requests = s.requests := rfl
@[simp] theorem State.goto_queue (s : State) (v : Word) : (s.goto v).queue = s.queue := rfl
@[simp] theorem State.goto_stale (s : State) (v : Word) : (s.goto v).stale = s.stale := rfl
@[simp] theorem State.goto_progress (s : State) (v : Word) : (s.goto v).progress = s.progress := rfl
@[simp] theorem State.goto_ruleStores (s : State) (v : Word) : (s.goto v).ruleStores = s.ruleStores := rfl
@[simp] theorem State.goto_draws (s : State) (v : Word) : (s.goto v).draws = s.draws := rfl
@[simp] theorem State.goto_cfg (s : State) (v : Word) : (s.goto v).cfg = s.cfg := rfl

@[simp] theorem State.jump_a (s : State) (v : Word) : (s.jump v).a = s.a := rfl
@[simp] theorem State.jump_b (s : State) (v : Word) : (s.jump v).b = s.b := rfl
@[simp] theorem State.jump_x (s : State) (v : Word) : (s.jump v).x = s.x := rfl
@[simp] theorem State.jump_y (s : State) (v : Word) : (s.jump v).y = s.y := rfl
@[simp] theorem State.jump_sp (s : State) (v : Word) : (s.jump v).sp = s.sp := rfl
@[simp] theorem State.jump_pc (s : State) (v : Word) : (s.jump v).pc = v := rfl
@[simp] theorem State.jump_ccr (s : State) (v : Word) : (s.jump v).ccr = s.ccr := rfl
@[simp] theorem State.jump_ppage (s : State) (v : Word) : (s.jump v).ppage = s.ppage := rfl
@[simp] theorem State.jump_mem (s : State) (v : Word) : (s.jump v).mem = s.mem := rfl
@[simp] theorem State.jump_runState (s : State) (v : Word) : (s.jump v).runState = s.runState := rfl
@[simp] theorem State.jump_requests (s : State) (v : Word) : (s.jump v).requests = s.requests := rfl
@[simp] theorem State.jump_queue (s : State) (v : Word) : (s.jump v).queue = [] := rfl
@[simp] theorem State.jump_stale (s : State) (v : Word) : (s.jump v).stale = [] := rfl
@[simp] theorem State.jump_progress (s : State) (v : Word) : (s.jump v).progress = s.progress := rfl
@[simp] theorem State.jump_ruleStores (s : State) (v : Word) : (s.jump v).ruleStores = s.ruleStores := rfl
@[simp] theorem State.jump_draws (s : State) (v : Word) : (s.jump v).draws = s.draws := rfl
@[simp] theorem State.jump_cfg (s : State) (v : Word) : (s.jump v).cfg = s.cfg := rfl

@[simp] theorem State.drawByte_a (s : State) : (s.drawByte.2).a = s.a := rfl
@[simp] theorem State.drawByte_b (s : State) : (s.drawByte.2).b = s.b := rfl
@[simp] theorem State.drawByte_x (s : State) : (s.drawByte.2).x = s.x := rfl
@[simp] theorem State.drawByte_y (s : State) : (s.drawByte.2).y = s.y := rfl
@[simp] theorem State.drawByte_sp (s : State) : (s.drawByte.2).sp = s.sp := rfl
@[simp] theorem State.drawByte_pc (s : State) : (s.drawByte.2).pc = s.pc := rfl
@[simp] theorem State.drawByte_ccr (s : State) : (s.drawByte.2).ccr = s.ccr := rfl
@[simp] theorem State.drawByte_ppage (s : State) : (s.drawByte.2).ppage = s.ppage := rfl
@[simp] theorem State.drawByte_mem (s : State) : (s.drawByte.2).mem = s.mem := rfl
@[simp] theorem State.drawByte_runState (s : State) : (s.drawByte.2).runState = s.runState := rfl
@[simp] theorem State.drawByte_requests (s : State) : (s.drawByte.2).requests = s.requests := rfl
@[simp] theorem State.drawByte_queue (s : State) : (s.drawByte.2).queue = s.queue := rfl
@[simp] theorem State.drawByte_stale (s : State) : (s.drawByte.2).stale = s.stale := rfl
@[simp] theorem State.drawByte_progress (s : State) : (s.drawByte.2).progress = s.progress := rfl
@[simp] theorem State.drawByte_ruleStores (s : State) : (s.drawByte.2).ruleStores = s.ruleStores := rfl
@[simp] theorem State.drawByte_draws (s : State) : (s.drawByte.2).draws = s.draws + 1 := rfl
@[simp] theorem State.drawByte_cfg (s : State) : (s.drawByte.2).cfg = s.cfg := rfl

@[simp] theorem State.drawFlag_a (s : State) (f : Flag) : (s.drawFlag f).a = s.a := rfl
@[simp] theorem State.drawFlag_b (s : State) (f : Flag) : (s.drawFlag f).b = s.b := rfl
@[simp] theorem State.drawFlag_x (s : State) (f : Flag) : (s.drawFlag f).x = s.x := rfl
@[simp] theorem State.drawFlag_y (s : State) (f : Flag) : (s.drawFlag f).y = s.y := rfl
@[simp] theorem State.drawFlag_sp (s : State) (f : Flag) : (s.drawFlag f).sp = s.sp := rfl
@[simp] theorem State.drawFlag_pc (s : State) (f : Flag) : (s.drawFlag f).pc = s.pc := rfl
@[simp] theorem State.drawFlag_ppage (s : State) (f : Flag) : (s.drawFlag f).ppage = s.ppage := rfl
@[simp] theorem State.drawFlag_mem (s : State) (f : Flag) : (s.drawFlag f).mem = s.mem := rfl
@[simp] theorem State.drawFlag_runState (s : State) (f : Flag) : (s.drawFlag f).runState = s.runState := rfl
@[simp] theorem State.drawFlag_requests (s : State) (f : Flag) : (s.drawFlag f).requests = s.requests := rfl
@[simp] theorem State.drawFlag_queue (s : State) (f : Flag) : (s.drawFlag f).queue = s.queue := rfl
@[simp] theorem State.drawFlag_stale (s : State) (f : Flag) : (s.drawFlag f).stale = s.stale := rfl
@[simp] theorem State.drawFlag_progress (s : State) (f : Flag) : (s.drawFlag f).progress = s.progress := rfl
@[simp] theorem State.drawFlag_ruleStores (s : State) (f : Flag) : (s.drawFlag f).ruleStores = s.ruleStores := rfl
@[simp] theorem State.drawFlag_draws (s : State) (f : Flag) : (s.drawFlag f).draws = s.draws + 1 := rfl
@[simp] theorem State.drawFlag_cfg (s : State) (f : Flag) : (s.drawFlag f).cfg = s.cfg := rfl

@[simp] theorem State.setAutoBase_a (s : State) (r : AutoBase) (v : Word) : (s.setAutoBase r v).a = s.a := by cases r <;> rfl
@[simp] theorem State.setAutoBase_b (s : State) (r : AutoBase) (v : Word) : (s.setAutoBase r v).b = s.b := by cases r <;> rfl
@[simp] theorem State.setAutoBase_pc (s : State) (r : AutoBase) (v : Word) : (s.setAutoBase r v).pc = s.pc := by cases r <;> rfl
@[simp] theorem State.setAutoBase_ccr (s : State) (r : AutoBase) (v : Word) : (s.setAutoBase r v).ccr = s.ccr := by cases r <;> rfl
@[simp] theorem State.setAutoBase_ppage (s : State) (r : AutoBase) (v : Word) : (s.setAutoBase r v).ppage = s.ppage := by cases r <;> rfl
@[simp] theorem State.setAutoBase_mem (s : State) (r : AutoBase) (v : Word) : (s.setAutoBase r v).mem = s.mem := by cases r <;> rfl
@[simp] theorem State.setAutoBase_runState (s : State) (r : AutoBase) (v : Word) : (s.setAutoBase r v).runState = s.runState := by cases r <;> rfl
@[simp] theorem State.setAutoBase_requests (s : State) (r : AutoBase) (v : Word) : (s.setAutoBase r v).requests = s.requests := by cases r <;> rfl
@[simp] theorem State.setAutoBase_queue (s : State) (r : AutoBase) (v : Word) : (s.setAutoBase r v).queue = s.queue := by cases r <;> rfl
@[simp] theorem State.setAutoBase_stale (s : State) (r : AutoBase) (v : Word) : (s.setAutoBase r v).stale = s.stale := by cases r <;> rfl
@[simp] theorem State.setAutoBase_progress (s : State) (r : AutoBase) (v : Word) : (s.setAutoBase r v).progress = s.progress := by cases r <;> rfl
@[simp] theorem State.setAutoBase_ruleStores (s : State) (r : AutoBase) (v : Word) : (s.setAutoBase r v).ruleStores = s.ruleStores := by cases r <;> rfl
@[simp] theorem State.setAutoBase_draws (s : State) (r : AutoBase) (v : Word) : (s.setAutoBase r v).draws = s.draws := by cases r <;> rfl
@[simp] theorem State.setAutoBase_cfg (s : State) (r : AutoBase) (v : Word) : (s.setAutoBase r v).cfg = s.cfg := by cases r <;> rfl

@[simp] theorem State.setReg8_x (s : State) (r : Reg8) (v : Byte) : (s.setReg8 r v).x = s.x := by cases r <;> rfl
@[simp] theorem State.setReg8_y (s : State) (r : Reg8) (v : Byte) : (s.setReg8 r v).y = s.y := by cases r <;> rfl
@[simp] theorem State.setReg8_sp (s : State) (r : Reg8) (v : Byte) : (s.setReg8 r v).sp = s.sp := by cases r <;> rfl
@[simp] theorem State.setReg8_pc (s : State) (r : Reg8) (v : Byte) : (s.setReg8 r v).pc = s.pc := by cases r <;> rfl
@[simp] theorem State.setReg8_ppage (s : State) (r : Reg8) (v : Byte) : (s.setReg8 r v).ppage = s.ppage := by cases r <;> rfl
@[simp] theorem State.setReg8_mem (s : State) (r : Reg8) (v : Byte) : (s.setReg8 r v).mem = s.mem := by cases r <;> rfl
@[simp] theorem State.setReg8_runState (s : State) (r : Reg8) (v : Byte) : (s.setReg8 r v).runState = s.runState := by cases r <;> rfl
@[simp] theorem State.setReg8_requests (s : State) (r : Reg8) (v : Byte) : (s.setReg8 r v).requests = s.requests := by cases r <;> rfl
@[simp] theorem State.setReg8_queue (s : State) (r : Reg8) (v : Byte) : (s.setReg8 r v).queue = s.queue := by cases r <;> rfl
@[simp] theorem State.setReg8_stale (s : State) (r : Reg8) (v : Byte) : (s.setReg8 r v).stale = s.stale := by cases r <;> rfl
@[simp] theorem State.setReg8_progress (s : State) (r : Reg8) (v : Byte) : (s.setReg8 r v).progress = s.progress := by cases r <;> rfl
@[simp] theorem State.setReg8_ruleStores (s : State) (r : Reg8) (v : Byte) : (s.setReg8 r v).ruleStores = s.ruleStores := by cases r <;> rfl
@[simp] theorem State.setReg8_draws (s : State) (r : Reg8) (v : Byte) : (s.setReg8 r v).draws = s.draws := by cases r <;> rfl
@[simp] theorem State.setReg8_cfg (s : State) (r : Reg8) (v : Byte) : (s.setReg8 r v).cfg = s.cfg := by cases r <;> rfl

@[simp] theorem State.setReg16_pc (s : State) (r : Reg16) (v : Word) : (s.setReg16 r v).pc = s.pc := by cases r <;> rfl
@[simp] theorem State.setReg16_ccr (s : State) (r : Reg16) (v : Word) : (s.setReg16 r v).ccr = s.ccr := by cases r <;> rfl
@[simp] theorem State.setReg16_ppage (s : State) (r : Reg16) (v : Word) : (s.setReg16 r v).ppage = s.ppage := by cases r <;> rfl
@[simp] theorem State.setReg16_mem (s : State) (r : Reg16) (v : Word) : (s.setReg16 r v).mem = s.mem := by cases r <;> rfl
@[simp] theorem State.setReg16_runState (s : State) (r : Reg16) (v : Word) : (s.setReg16 r v).runState = s.runState := by cases r <;> rfl
@[simp] theorem State.setReg16_requests (s : State) (r : Reg16) (v : Word) : (s.setReg16 r v).requests = s.requests := by cases r <;> rfl
@[simp] theorem State.setReg16_queue (s : State) (r : Reg16) (v : Word) : (s.setReg16 r v).queue = s.queue := by cases r <;> rfl
@[simp] theorem State.setReg16_stale (s : State) (r : Reg16) (v : Word) : (s.setReg16 r v).stale = s.stale := by cases r <;> rfl
@[simp] theorem State.setReg16_progress (s : State) (r : Reg16) (v : Word) : (s.setReg16 r v).progress = s.progress := by cases r <;> rfl
@[simp] theorem State.setReg16_ruleStores (s : State) (r : Reg16) (v : Word) : (s.setReg16 r v).ruleStores = s.ruleStores := by cases r <;> rfl
@[simp] theorem State.setReg16_draws (s : State) (r : Reg16) (v : Word) : (s.setReg16 r v).draws = s.draws := by cases r <;> rfl
@[simp] theorem State.setReg16_cfg (s : State) (r : Reg16) (v : Word) : (s.setReg16 r v).cfg = s.cfg := by cases r <;> rfl

@[simp] theorem State.addCounter_pc (s : State) (r : LoopReg) (k : Int) : (s.addCounter r k).pc = s.pc := by cases r <;> rfl
@[simp] theorem State.addCounter_ccr (s : State) (r : LoopReg) (k : Int) : (s.addCounter r k).ccr = s.ccr := by cases r <;> rfl
@[simp] theorem State.addCounter_ppage (s : State) (r : LoopReg) (k : Int) : (s.addCounter r k).ppage = s.ppage := by cases r <;> rfl
@[simp] theorem State.addCounter_mem (s : State) (r : LoopReg) (k : Int) : (s.addCounter r k).mem = s.mem := by cases r <;> rfl
@[simp] theorem State.addCounter_runState (s : State) (r : LoopReg) (k : Int) : (s.addCounter r k).runState = s.runState := by cases r <;> rfl
@[simp] theorem State.addCounter_requests (s : State) (r : LoopReg) (k : Int) : (s.addCounter r k).requests = s.requests := by cases r <;> rfl
@[simp] theorem State.addCounter_queue (s : State) (r : LoopReg) (k : Int) : (s.addCounter r k).queue = s.queue := by cases r <;> rfl
@[simp] theorem State.addCounter_stale (s : State) (r : LoopReg) (k : Int) : (s.addCounter r k).stale = s.stale := by cases r <;> rfl
@[simp] theorem State.addCounter_progress (s : State) (r : LoopReg) (k : Int) : (s.addCounter r k).progress = s.progress := by cases r <;> rfl
@[simp] theorem State.addCounter_ruleStores (s : State) (r : LoopReg) (k : Int) : (s.addCounter r k).ruleStores = s.ruleStores := by cases r <;> rfl
@[simp] theorem State.addCounter_draws (s : State) (r : LoopReg) (k : Int) : (s.addCounter r k).draws = s.draws := by cases r <;> rfl
@[simp] theorem State.addCounter_cfg (s : State) (r : LoopReg) (k : Int) : (s.addCounter r k).cfg = s.cfg := by cases r <;> rfl

@[simp] theorem State.forgetStores_a (s : State) : (s.forgetStores).a = s.a := rfl
@[simp] theorem State.forgetStores_b (s : State) : (s.forgetStores).b = s.b := rfl
@[simp] theorem State.forgetStores_x (s : State) : (s.forgetStores).x = s.x := rfl
@[simp] theorem State.forgetStores_y (s : State) : (s.forgetStores).y = s.y := rfl
@[simp] theorem State.forgetStores_sp (s : State) : (s.forgetStores).sp = s.sp := rfl
@[simp] theorem State.forgetStores_pc (s : State) : (s.forgetStores).pc = s.pc := rfl
@[simp] theorem State.forgetStores_ccr (s : State) : (s.forgetStores).ccr = s.ccr := rfl
@[simp] theorem State.forgetStores_ppage (s : State) : (s.forgetStores).ppage = s.ppage := rfl
@[simp] theorem State.forgetStores_mem (s : State) : (s.forgetStores).mem = s.mem := rfl
@[simp] theorem State.forgetStores_runState (s : State) : (s.forgetStores).runState = s.runState := rfl
@[simp] theorem State.forgetStores_requests (s : State) : (s.forgetStores).requests = [] := rfl
@[simp] theorem State.forgetStores_queue (s : State) : (s.forgetStores).queue = s.queue := rfl
@[simp] theorem State.forgetStores_stale (s : State) : (s.forgetStores).stale = [] := rfl
@[simp] theorem State.forgetStores_progress (s : State) : (s.forgetStores).progress = s.progress := rfl
@[simp] theorem State.forgetStores_ruleStores (s : State) : (s.forgetStores).ruleStores = s.ruleStores := rfl
@[simp] theorem State.forgetStores_draws (s : State) : (s.forgetStores).draws = s.draws := rfl
@[simp] theorem State.forgetStores_cfg (s : State) : (s.forgetStores).cfg = s.cfg := rfl

@[simp] theorem State.sample_a (s : State) : (s.sample.2).a = s.a := by unfold State.sample; split <;> rfl
@[simp] theorem State.sample_b (s : State) : (s.sample.2).b = s.b := by unfold State.sample; split <;> rfl
@[simp] theorem State.sample_x (s : State) : (s.sample.2).x = s.x := by unfold State.sample; split <;> rfl
@[simp] theorem State.sample_y (s : State) : (s.sample.2).y = s.y := by unfold State.sample; split <;> rfl
@[simp] theorem State.sample_sp (s : State) : (s.sample.2).sp = s.sp := by unfold State.sample; split <;> rfl
@[simp] theorem State.sample_pc (s : State) : (s.sample.2).pc = s.pc := by unfold State.sample; split <;> rfl
@[simp] theorem State.sample_ccr (s : State) : (s.sample.2).ccr = s.ccr := by unfold State.sample; split <;> rfl
@[simp] theorem State.sample_ppage (s : State) : (s.sample.2).ppage = s.ppage := by unfold State.sample; split <;> rfl
@[simp] theorem State.sample_mem (s : State) : (s.sample.2).mem = s.mem := by unfold State.sample; split <;> rfl
@[simp] theorem State.sample_runState (s : State) : (s.sample.2).runState = s.runState := by unfold State.sample; split <;> rfl
@[simp] theorem State.sample_queue (s : State) : (s.sample.2).queue = s.queue := by unfold State.sample; split <;> rfl
@[simp] theorem State.sample_stale (s : State) : (s.sample.2).stale = s.stale := by unfold State.sample; split <;> rfl
@[simp] theorem State.sample_progress (s : State) : (s.sample.2).progress = s.progress := by unfold State.sample; split <;> rfl
@[simp] theorem State.sample_ruleStores (s : State) : (s.sample.2).ruleStores = s.ruleStores := by unfold State.sample; split <;> rfl
@[simp] theorem State.sample_draws (s : State) : (s.sample.2).draws = s.draws := by unfold State.sample; split <;> rfl
@[simp] theorem State.sample_cfg (s : State) : (s.sample.2).cfg = s.cfg := by unfold State.sample; split <;> rfl
/-- D is A above B (10_state.md R22). -/
theorem State.d_eq (s : State) : s.d = s.a ++ s.b := rfl

/-- Writing D and reading it gives the value written. -/
@[simp] theorem State.setD_d (s : State) (v : Word) : (s.setD v).d = v := by
  simp only [State.d, State.setD_a, State.setD_b]
  ext i hi
  simp only [BitVec.getElem_append, BitVec.getElem_extractLsb']
  by_cases h : i < 8 <;> simp [h, BitVec.getLsbD_eq_getElem hi]
  rw [← BitVec.getLsbD_eq_getElem hi]
  congr 1
  omega

/-- D written together with the CCR. -/
@[simp] theorem State.setDFlags_d (s : State) (p : Word × Byte) : (s.setDFlags p).d = p.1 := State.setD_d s p.1

end Sys2Proof.Machine
end

