-- ==== Sys2Proof/Laws/Access.lean ====
section
/-!
SUPPORT. What the operations of Machine/Ops.lean and Machine/Operands.lean leave alone, field by field, and what a store
does to the byte every address holds.
-/

namespace Sys2Proof.Machine

@[simp] theorem State.read8_a (s : State) (a : Word) : ((s.read8 a).2).a = s.a := by unfold State.read8; split <;> (try split) <;> rfl
@[simp] theorem State.read8_b (s : State) (a : Word) : ((s.read8 a).2).b = s.b := by unfold State.read8; split <;> (try split) <;> rfl
@[simp] theorem State.read8_x (s : State) (a : Word) : ((s.read8 a).2).x = s.x := by unfold State.read8; split <;> (try split) <;> rfl
@[simp] theorem State.read8_y (s : State) (a : Word) : ((s.read8 a).2).y = s.y := by unfold State.read8; split <;> (try split) <;> rfl
@[simp] theorem State.read8_sp (s : State) (a : Word) : ((s.read8 a).2).sp = s.sp := by unfold State.read8; split <;> (try split) <;> rfl
@[simp] theorem State.read8_pc (s : State) (a : Word) : ((s.read8 a).2).pc = s.pc := by unfold State.read8; split <;> (try split) <;> rfl
@[simp] theorem State.read8_ccr (s : State) (a : Word) : ((s.read8 a).2).ccr = s.ccr := by unfold State.read8; split <;> (try split) <;> rfl
@[simp] theorem State.read8_ppage (s : State) (a : Word) : ((s.read8 a).2).ppage = s.ppage := by unfold State.read8; split <;> (try split) <;> rfl
@[simp] theorem State.read8_mem (s : State) (a : Word) : ((s.read8 a).2).mem = s.mem := by unfold State.read8; split <;> (try split) <;> rfl
@[simp] theorem State.read8_runState (s : State) (a : Word) : ((s.read8 a).2).runState = s.runState := by unfold State.read8; split <;> (try split) <;> rfl
@[simp] theorem State.read8_requests (s : State) (a : Word) : ((s.read8 a).2).requests = s.requests := by unfold State.read8; split <;> (try split) <;> rfl
@[simp] theorem State.read8_queue (s : State) (a : Word) : ((s.read8 a).2).queue = s.queue := by unfold State.read8; split <;> (try split) <;> rfl
@[simp] theorem State.read8_stale (s : State) (a : Word) : ((s.read8 a).2).stale = s.stale := by unfold State.read8; split <;> (try split) <;> rfl
@[simp] theorem State.read8_progress (s : State) (a : Word) : ((s.read8 a).2).progress = s.progress := by unfold State.read8; split <;> (try split) <;> rfl
@[simp] theorem State.read8_ruleStores (s : State) (a : Word) : ((s.read8 a).2).ruleStores = s.ruleStores := by unfold State.read8; split <;> (try split) <;> rfl
@[simp] theorem State.read8_cfg (s : State) (a : Word) : ((s.read8 a).2).cfg = s.cfg := by unfold State.read8; split <;> (try split) <;> rfl

@[simp] theorem State.read16_a (s : State) (a : Word) : ((s.read16 a).2).a = s.a := by simp [State.read16]
@[simp] theorem State.read16_b (s : State) (a : Word) : ((s.read16 a).2).b = s.b := by simp [State.read16]
@[simp] theorem State.read16_x (s : State) (a : Word) : ((s.read16 a).2).x = s.x := by simp [State.read16]
@[simp] theorem State.read16_y (s : State) (a : Word) : ((s.read16 a).2).y = s.y := by simp [State.read16]
@[simp] theorem State.read16_sp (s : State) (a : Word) : ((s.read16 a).2).sp = s.sp := by simp [State.read16]
@[simp] theorem State.read16_pc (s : State) (a : Word) : ((s.read16 a).2).pc = s.pc := by simp [State.read16]
@[simp] theorem State.read16_ccr (s : State) (a : Word) : ((s.read16 a).2).ccr = s.ccr := by simp [State.read16]
@[simp] theorem State.read16_ppage (s : State) (a : Word) : ((s.read16 a).2).ppage = s.ppage := by simp [State.read16]
@[simp] theorem State.read16_mem (s : State) (a : Word) : ((s.read16 a).2).mem = s.mem := by simp [State.read16]
@[simp] theorem State.read16_runState (s : State) (a : Word) : ((s.read16 a).2).runState = s.runState := by simp [State.read16]
@[simp] theorem State.read16_requests (s : State) (a : Word) : ((s.read16 a).2).requests = s.requests := by simp [State.read16]
@[simp] theorem State.read16_queue (s : State) (a : Word) : ((s.read16 a).2).queue = s.queue := by simp [State.read16]
@[simp] theorem State.read16_stale (s : State) (a : Word) : ((s.read16 a).2).stale = s.stale := by simp [State.read16]
@[simp] theorem State.read16_progress (s : State) (a : Word) : ((s.read16 a).2).progress = s.progress := by simp [State.read16]
@[simp] theorem State.read16_ruleStores (s : State) (a : Word) : ((s.read16 a).2).ruleStores = s.ruleStores := by simp [State.read16]
@[simp] theorem State.read16_cfg (s : State) (a : Word) : ((s.read16 a).2).cfg = s.cfg := by simp [State.read16]

@[simp] theorem State.pull8_a (s : State) : (s.pull8.2).a = s.a := by simp [State.pull8]
@[simp] theorem State.pull8_b (s : State) : (s.pull8.2).b = s.b := by simp [State.pull8]
@[simp] theorem State.pull8_x (s : State) : (s.pull8.2).x = s.x := by simp [State.pull8]
@[simp] theorem State.pull8_y (s : State) : (s.pull8.2).y = s.y := by simp [State.pull8]
@[simp] theorem State.pull8_sp (s : State) : (s.pull8.2).sp = s.sp + 1 := by simp [State.pull8]
@[simp] theorem State.pull8_pc (s : State) : (s.pull8.2).pc = s.pc := by simp [State.pull8]
@[simp] theorem State.pull8_ccr (s : State) : (s.pull8.2).ccr = s.ccr := by simp [State.pull8]
@[simp] theorem State.pull8_ppage (s : State) : (s.pull8.2).ppage = s.ppage := by simp [State.pull8]
@[simp] theorem State.pull8_mem (s : State) : (s.pull8.2).mem = s.mem := by simp [State.pull8]
@[simp] theorem State.pull8_runState (s : State) : (s.pull8.2).runState = s.runState := by simp [State.pull8]
@[simp] theorem State.pull8_requests (s : State) : (s.pull8.2).requests = s.requests := by simp [State.pull8]
@[simp] theorem State.pull8_queue (s : State) : (s.pull8.2).queue = s.queue := by simp [State.pull8]
@[simp] theorem State.pull8_stale (s : State) : (s.pull8.2).stale = s.stale := by simp [State.pull8]
@[simp] theorem State.pull8_progress (s : State) : (s.pull8.2).progress = s.progress := by simp [State.pull8]
@[simp] theorem State.pull8_ruleStores (s : State) : (s.pull8.2).ruleStores = s.ruleStores := by simp [State.pull8]
@[simp] theorem State.pull8_cfg (s : State) : (s.pull8.2).cfg = s.cfg := by simp [State.pull8]

@[simp] theorem State.pull16_a (s : State) : (s.pull16.2).a = s.a := by simp [State.pull16]
@[simp] theorem State.pull16_b (s : State) : (s.pull16.2).b = s.b := by simp [State.pull16]
@[simp] theorem State.pull16_x (s : State) : (s.pull16.2).x = s.x := by simp [State.pull16]
@[simp] theorem State.pull16_y (s : State) : (s.pull16.2).y = s.y := by simp [State.pull16]
@[simp] theorem State.pull16_sp (s : State) : (s.pull16.2).sp = s.sp + 2 := by simp [State.pull16]
@[simp] theorem State.pull16_pc (s : State) : (s.pull16.2).pc = s.pc := by simp [State.pull16]
@[simp] theorem State.pull16_ccr (s : State) : (s.pull16.2).ccr = s.ccr := by simp [State.pull16]
@[simp] theorem State.pull16_ppage (s : State) : (s.pull16.2).ppage = s.ppage := by simp [State.pull16]
@[simp] theorem State.pull16_mem (s : State) : (s.pull16.2).mem = s.mem := by simp [State.pull16]
@[simp] theorem State.pull16_runState (s : State) : (s.pull16.2).runState = s.runState := by simp [State.pull16]
@[simp] theorem State.pull16_requests (s : State) : (s.pull16.2).requests = s.requests := by simp [State.pull16]
@[simp] theorem State.pull16_queue (s : State) : (s.pull16.2).queue = s.queue := by simp [State.pull16]
@[simp] theorem State.pull16_stale (s : State) : (s.pull16.2).stale = s.stale := by simp [State.pull16]
@[simp] theorem State.pull16_progress (s : State) : (s.pull16.2).progress = s.progress := by simp [State.pull16]
@[simp] theorem State.pull16_ruleStores (s : State) : (s.pull16.2).ruleStores = s.ruleStores := by simp [State.pull16]
@[simp] theorem State.pull16_cfg (s : State) : (s.pull16.2).cfg = s.cfg := by simp [State.pull16]

@[simp] theorem State.eaShort_a (s : State) (f : IdxShort) : ((s.eaShort f).2).a = s.a := by cases f <;> simp [State.eaShort]
@[simp] theorem State.eaShort_b (s : State) (f : IdxShort) : ((s.eaShort f).2).b = s.b := by cases f <;> simp [State.eaShort]
@[simp] theorem State.eaShort_pc (s : State) (f : IdxShort) : ((s.eaShort f).2).pc = s.pc := by cases f <;> simp [State.eaShort]
@[simp] theorem State.eaShort_ccr (s : State) (f : IdxShort) : ((s.eaShort f).2).ccr = s.ccr := by cases f <;> simp [State.eaShort]
@[simp] theorem State.eaShort_ppage (s : State) (f : IdxShort) : ((s.eaShort f).2).ppage = s.ppage := by cases f <;> simp [State.eaShort]
@[simp] theorem State.eaShort_mem (s : State) (f : IdxShort) : ((s.eaShort f).2).mem = s.mem := by cases f <;> simp [State.eaShort]
@[simp] theorem State.eaShort_runState (s : State) (f : IdxShort) : ((s.eaShort f).2).runState = s.runState := by cases f <;> simp [State.eaShort]
@[simp] theorem State.eaShort_requests (s : State) (f : IdxShort) : ((s.eaShort f).2).requests = s.requests := by cases f <;> simp [State.eaShort]
@[simp] theorem State.eaShort_queue (s : State) (f : IdxShort) : ((s.eaShort f).2).queue = s.queue := by cases f <;> simp [State.eaShort]
@[simp] theorem State.eaShort_stale (s : State) (f : IdxShort) : ((s.eaShort f).2).stale = s.stale := by cases f <;> simp [State.eaShort]
@[simp] theorem State.eaShort_progress (s : State) (f : IdxShort) : ((s.eaShort f).2).progress = s.progress := by cases f <;> simp [State.eaShort]
@[simp] theorem State.eaShort_ruleStores (s : State) (f : IdxShort) : ((s.eaShort f).2).ruleStores = s.ruleStores := by cases f <;> simp [State.eaShort]
@[simp] theorem State.eaShort_draws (s : State) (f : IdxShort) : ((s.eaShort f).2).draws = s.draws := by cases f <;> simp [State.eaShort]
@[simp] theorem State.eaShort_cfg (s : State) (f : IdxShort) : ((s.eaShort f).2).cfg = s.cfg := by cases f <;> simp [State.eaShort]

@[simp] theorem State.eaDirect_a (s : State) (f : IdxDirect) : ((s.eaDirect f).2).a = s.a := by cases f <;> simp [State.eaDirect]
@[simp] theorem State.eaDirect_b (s : State) (f : IdxDirect) : ((s.eaDirect f).2).b = s.b := by cases f <;> simp [State.eaDirect]
@[simp] theorem State.eaDirect_pc (s : State) (f : IdxDirect) : ((s.eaDirect f).2).pc = s.pc := by cases f <;> simp [State.eaDirect]
@[simp] theorem State.eaDirect_ccr (s : State) (f : IdxDirect) : ((s.eaDirect f).2).ccr = s.ccr := by cases f <;> simp [State.eaDirect]
@[simp] theorem State.eaDirect_ppage (s : State) (f : IdxDirect) : ((s.eaDirect f).2).ppage = s.ppage := by cases f <;> simp [State.eaDirect]
@[simp] theorem State.eaDirect_mem (s : State) (f : IdxDirect) : ((s.eaDirect f).2).mem = s.mem := by cases f <;> simp [State.eaDirect]
@[simp] theorem State.eaDirect_runState (s : State) (f : IdxDirect) : ((s.eaDirect f).2).runState = s.runState := by cases f <;> simp [State.eaDirect]
@[simp] theorem State.eaDirect_requests (s : State) (f : IdxDirect) : ((s.eaDirect f).2).requests = s.requests := by cases f <;> simp [State.eaDirect]
@[simp] theorem State.eaDirect_queue (s : State) (f : IdxDirect) : ((s.eaDirect f).2).queue = s.queue := by cases f <;> simp [State.eaDirect]
@[simp] theorem State.eaDirect_stale (s : State) (f : IdxDirect) : ((s.eaDirect f).2).stale = s.stale := by cases f <;> simp [State.eaDirect]
@[simp] theorem State.eaDirect_progress (s : State) (f : IdxDirect) : ((s.eaDirect f).2).progress = s.progress := by cases f <;> simp [State.eaDirect]
@[simp] theorem State.eaDirect_ruleStores (s : State) (f : IdxDirect) : ((s.eaDirect f).2).ruleStores = s.ruleStores := by cases f <;> simp [State.eaDirect]
@[simp] theorem State.eaDirect_draws (s : State) (f : IdxDirect) : ((s.eaDirect f).2).draws = s.draws := by cases f <;> simp [State.eaDirect]
@[simp] theorem State.eaDirect_cfg (s : State) (f : IdxDirect) : ((s.eaDirect f).2).cfg = s.cfg := by cases f <;> simp [State.eaDirect]

@[simp] theorem State.eaFull_a (s : State) (f : IdxFull) : ((s.eaFull f).2).a = s.a := by cases f <;> simp [State.eaFull]
@[simp] theorem State.eaFull_b (s : State) (f : IdxFull) : ((s.eaFull f).2).b = s.b := by cases f <;> simp [State.eaFull]
@[simp] theorem State.eaFull_pc (s : State) (f : IdxFull) : ((s.eaFull f).2).pc = s.pc := by cases f <;> simp [State.eaFull]
@[simp] theorem State.eaFull_ccr (s : State) (f : IdxFull) : ((s.eaFull f).2).ccr = s.ccr := by cases f <;> simp [State.eaFull]
@[simp] theorem State.eaFull_ppage (s : State) (f : IdxFull) : ((s.eaFull f).2).ppage = s.ppage := by cases f <;> simp [State.eaFull]
@[simp] theorem State.eaFull_mem (s : State) (f : IdxFull) : ((s.eaFull f).2).mem = s.mem := by cases f <;> simp [State.eaFull]
@[simp] theorem State.eaFull_runState (s : State) (f : IdxFull) : ((s.eaFull f).2).runState = s.runState := by cases f <;> simp [State.eaFull]
@[simp] theorem State.eaFull_requests (s : State) (f : IdxFull) : ((s.eaFull f).2).requests = s.requests := by cases f <;> simp [State.eaFull]
@[simp] theorem State.eaFull_queue (s : State) (f : IdxFull) : ((s.eaFull f).2).queue = s.queue := by cases f <;> simp [State.eaFull]
@[simp] theorem State.eaFull_stale (s : State) (f : IdxFull) : ((s.eaFull f).2).stale = s.stale := by cases f <;> simp [State.eaFull]
@[simp] theorem State.eaFull_progress (s : State) (f : IdxFull) : ((s.eaFull f).2).progress = s.progress := by cases f <;> simp [State.eaFull]
@[simp] theorem State.eaFull_ruleStores (s : State) (f : IdxFull) : ((s.eaFull f).2).ruleStores = s.ruleStores := by cases f <;> simp [State.eaFull]
@[simp] theorem State.eaFull_cfg (s : State) (f : IdxFull) : ((s.eaFull f).2).cfg = s.cfg := by cases f <;> simp [State.eaFull]

@[simp] theorem State.eaMem_a (s : State) (m : MemOperand) : ((s.eaMem m).2).a = s.a := by cases m <;> simp [State.eaMem]
@[simp] theorem State.eaMem_b (s : State) (m : MemOperand) : ((s.eaMem m).2).b = s.b := by cases m <;> simp [State.eaMem]
@[simp] theorem State.eaMem_pc (s : State) (m : MemOperand) : ((s.eaMem m).2).pc = s.pc := by cases m <;> simp [State.eaMem]
@[simp] theorem State.eaMem_ccr (s : State) (m : MemOperand) : ((s.eaMem m).2).ccr = s.ccr := by cases m <;> simp [State.eaMem]
@[simp] theorem State.eaMem_ppage (s : State) (m : MemOperand) : ((s.eaMem m).2).ppage = s.ppage := by cases m <;> simp [State.eaMem]
@[simp] theorem State.eaMem_mem (s : State) (m : MemOperand) : ((s.eaMem m).2).mem = s.mem := by cases m <;> simp [State.eaMem]
@[simp] theorem State.eaMem_runState (s : State) (m : MemOperand) : ((s.eaMem m).2).runState = s.runState := by cases m <;> simp [State.eaMem]
@[simp] theorem State.eaMem_requests (s : State) (m : MemOperand) : ((s.eaMem m).2).requests = s.requests := by cases m <;> simp [State.eaMem]
@[simp] theorem State.eaMem_queue (s : State) (m : MemOperand) : ((s.eaMem m).2).queue = s.queue := by cases m <;> simp [State.eaMem]
@[simp] theorem State.eaMem_stale (s : State) (m : MemOperand) : ((s.eaMem m).2).stale = s.stale := by cases m <;> simp [State.eaMem]
@[simp] theorem State.eaMem_progress (s : State) (m : MemOperand) : ((s.eaMem m).2).progress = s.progress := by cases m <;> simp [State.eaMem]
@[simp] theorem State.eaMem_ruleStores (s : State) (m : MemOperand) : ((s.eaMem m).2).ruleStores = s.ruleStores := by cases m <;> simp [State.eaMem]
@[simp] theorem State.eaMem_cfg (s : State) (m : MemOperand) : ((s.eaMem m).2).cfg = s.cfg := by cases m <;> simp [State.eaMem]

@[simp] theorem State.eaRmw_a (s : State) (m : RmwOperand) : ((s.eaRmw m).2).a = s.a := by cases m <;> simp [State.eaRmw]
@[simp] theorem State.eaRmw_b (s : State) (m : RmwOperand) : ((s.eaRmw m).2).b = s.b := by cases m <;> simp [State.eaRmw]
@[simp] theorem State.eaRmw_pc (s : State) (m : RmwOperand) : ((s.eaRmw m).2).pc = s.pc := by cases m <;> simp [State.eaRmw]
@[simp] theorem State.eaRmw_ccr (s : State) (m : RmwOperand) : ((s.eaRmw m).2).ccr = s.ccr := by cases m <;> simp [State.eaRmw]
@[simp] theorem State.eaRmw_ppage (s : State) (m : RmwOperand) : ((s.eaRmw m).2).ppage = s.ppage := by cases m <;> simp [State.eaRmw]
@[simp] theorem State.eaRmw_mem (s : State) (m : RmwOperand) : ((s.eaRmw m).2).mem = s.mem := by cases m <;> simp [State.eaRmw]
@[simp] theorem State.eaRmw_runState (s : State) (m : RmwOperand) : ((s.eaRmw m).2).runState = s.runState := by cases m <;> simp [State.eaRmw]
@[simp] theorem State.eaRmw_requests (s : State) (m : RmwOperand) : ((s.eaRmw m).2).requests = s.requests := by cases m <;> simp [State.eaRmw]
@[simp] theorem State.eaRmw_queue (s : State) (m : RmwOperand) : ((s.eaRmw m).2).queue = s.queue := by cases m <;> simp [State.eaRmw]
@[simp] theorem State.eaRmw_stale (s : State) (m : RmwOperand) : ((s.eaRmw m).2).stale = s.stale := by cases m <;> simp [State.eaRmw]
@[simp] theorem State.eaRmw_progress (s : State) (m : RmwOperand) : ((s.eaRmw m).2).progress = s.progress := by cases m <;> simp [State.eaRmw]
@[simp] theorem State.eaRmw_ruleStores (s : State) (m : RmwOperand) : ((s.eaRmw m).2).ruleStores = s.ruleStores := by cases m <;> simp [State.eaRmw]
@[simp] theorem State.eaRmw_cfg (s : State) (m : RmwOperand) : ((s.eaRmw m).2).cfg = s.cfg := by cases m <;> simp [State.eaRmw]

@[simp] theorem State.eaBit_a (s : State) (m : BitOperand) : ((s.eaBit m).2).a = s.a := by cases m <;> simp [State.eaBit]
@[simp] theorem State.eaBit_b (s : State) (m : BitOperand) : ((s.eaBit m).2).b = s.b := by cases m <;> simp [State.eaBit]
@[simp] theorem State.eaBit_pc (s : State) (m : BitOperand) : ((s.eaBit m).2).pc = s.pc := by cases m <;> simp [State.eaBit]
@[simp] theorem State.eaBit_ccr (s : State) (m : BitOperand) : ((s.eaBit m).2).ccr = s.ccr := by cases m <;> simp [State.eaBit]
@[simp] theorem State.eaBit_ppage (s : State) (m : BitOperand) : ((s.eaBit m).2).ppage = s.ppage := by cases m <;> simp [State.eaBit]
@[simp] theorem State.eaBit_mem (s : State) (m : BitOperand) : ((s.eaBit m).2).mem = s.mem := by cases m <;> simp [State.eaBit]
@[simp] theorem State.eaBit_runState (s : State) (m : BitOperand) : ((s.eaBit m).2).runState = s.runState := by cases m <;> simp [State.eaBit]
@[simp] theorem State.eaBit_requests (s : State) (m : BitOperand) : ((s.eaBit m).2).requests = s.requests := by cases m <;> simp [State.eaBit]
@[simp] theorem State.eaBit_queue (s : State) (m : BitOperand) : ((s.eaBit m).2).queue = s.queue := by cases m <;> simp [State.eaBit]
@[simp] theorem State.eaBit_stale (s : State) (m : BitOperand) : ((s.eaBit m).2).stale = s.stale := by cases m <;> simp [State.eaBit]
@[simp] theorem State.eaBit_progress (s : State) (m : BitOperand) : ((s.eaBit m).2).progress = s.progress := by cases m <;> simp [State.eaBit]
@[simp] theorem State.eaBit_ruleStores (s : State) (m : BitOperand) : ((s.eaBit m).2).ruleStores = s.ruleStores := by cases m <;> simp [State.eaBit]
@[simp] theorem State.eaBit_draws (s : State) (m : BitOperand) : ((s.eaBit m).2).draws = s.draws := by cases m <;> simp [State.eaBit]
@[simp] theorem State.eaBit_cfg (s : State) (m : BitOperand) : ((s.eaBit m).2).cfg = s.cfg := by cases m <;> simp [State.eaBit]

@[simp] theorem State.eaDest_a (s : State) (m : MoveDest) : ((s.eaDest m).2).a = s.a := by cases m <;> simp [State.eaDest]
@[simp] theorem State.eaDest_b (s : State) (m : MoveDest) : ((s.eaDest m).2).b = s.b := by cases m <;> simp [State.eaDest]
@[simp] theorem State.eaDest_pc (s : State) (m : MoveDest) : ((s.eaDest m).2).pc = s.pc := by cases m <;> simp [State.eaDest]
@[simp] theorem State.eaDest_ccr (s : State) (m : MoveDest) : ((s.eaDest m).2).ccr = s.ccr := by cases m <;> simp [State.eaDest]
@[simp] theorem State.eaDest_ppage (s : State) (m : MoveDest) : ((s.eaDest m).2).ppage = s.ppage := by cases m <;> simp [State.eaDest]
@[simp] theorem State.eaDest_mem (s : State) (m : MoveDest) : ((s.eaDest m).2).mem = s.mem := by cases m <;> simp [State.eaDest]
@[simp] theorem State.eaDest_runState (s : State) (m : MoveDest) : ((s.eaDest m).2).runState = s.runState := by cases m <;> simp [State.eaDest]
@[simp] theorem State.eaDest_requests (s : State) (m : MoveDest) : ((s.eaDest m).2).requests = s.requests := by cases m <;> simp [State.eaDest]
@[simp] theorem State.eaDest_queue (s : State) (m : MoveDest) : ((s.eaDest m).2).queue = s.queue := by cases m <;> simp [State.eaDest]
@[simp] theorem State.eaDest_stale (s : State) (m : MoveDest) : ((s.eaDest m).2).stale = s.stale := by cases m <;> simp [State.eaDest]
@[simp] theorem State.eaDest_progress (s : State) (m : MoveDest) : ((s.eaDest m).2).progress = s.progress := by cases m <;> simp [State.eaDest]
@[simp] theorem State.eaDest_ruleStores (s : State) (m : MoveDest) : ((s.eaDest m).2).ruleStores = s.ruleStores := by cases m <;> simp [State.eaDest]
@[simp] theorem State.eaDest_draws (s : State) (m : MoveDest) : ((s.eaDest m).2).draws = s.draws := by cases m <;> simp [State.eaDest]
@[simp] theorem State.eaDest_cfg (s : State) (m : MoveDest) : ((s.eaDest m).2).cfg = s.cfg := by cases m <;> simp [State.eaDest]

@[simp] theorem State.operand8_a (s : State) (o : Operand8) : ((s.operand8 o).2).a = s.a := by cases o <;> simp [State.operand8]
@[simp] theorem State.operand8_b (s : State) (o : Operand8) : ((s.operand8 o).2).b = s.b := by cases o <;> simp [State.operand8]
@[simp] theorem State.operand8_pc (s : State) (o : Operand8) : ((s.operand8 o).2).pc = s.pc := by cases o <;> simp [State.operand8]
@[simp] theorem State.operand8_ccr (s : State) (o : Operand8) : ((s.operand8 o).2).ccr = s.ccr := by cases o <;> simp [State.operand8]
@[simp] theorem State.operand8_ppage (s : State) (o : Operand8) : ((s.operand8 o).2).ppage = s.ppage := by cases o <;> simp [State.operand8]
@[simp] theorem State.operand8_mem (s : State) (o : Operand8) : ((s.operand8 o).2).mem = s.mem := by cases o <;> simp [State.operand8]
@[simp] theorem State.operand8_runState (s : State) (o : Operand8) : ((s.operand8 o).2).runState = s.runState := by cases o <;> simp [State.operand8]
@[simp] theorem State.operand8_requests (s : State) (o : Operand8) : ((s.operand8 o).2).requests = s.requests := by cases o <;> simp [State.operand8]
@[simp] theorem State.operand8_queue (s : State) (o : Operand8) : ((s.operand8 o).2).queue = s.queue := by cases o <;> simp [State.operand8]
@[simp] theorem State.operand8_stale (s : State) (o : Operand8) : ((s.operand8 o).2).stale = s.stale := by cases o <;> simp [State.operand8]
@[simp] theorem State.operand8_progress (s : State) (o : Operand8) : ((s.operand8 o).2).progress = s.progress := by cases o <;> simp [State.operand8]
@[simp] theorem State.operand8_ruleStores (s : State) (o : Operand8) : ((s.operand8 o).2).ruleStores = s.ruleStores := by cases o <;> simp [State.operand8]
@[simp] theorem State.operand8_cfg (s : State) (o : Operand8) : ((s.operand8 o).2).cfg = s.cfg := by cases o <;> simp [State.operand8]

@[simp] theorem State.operand16_a (s : State) (o : Operand16) : ((s.operand16 o).2).a = s.a := by cases o <;> simp [State.operand16]
@[simp] theorem State.operand16_b (s : State) (o : Operand16) : ((s.operand16 o).2).b = s.b := by cases o <;> simp [State.operand16]
@[simp] theorem State.operand16_pc (s : State) (o : Operand16) : ((s.operand16 o).2).pc = s.pc := by cases o <;> simp [State.operand16]
@[simp] theorem State.operand16_ccr (s : State) (o : Operand16) : ((s.operand16 o).2).ccr = s.ccr := by cases o <;> simp [State.operand16]
@[simp] theorem State.operand16_ppage (s : State) (o : Operand16) : ((s.operand16 o).2).ppage = s.ppage := by cases o <;> simp [State.operand16]
@[simp] theorem State.operand16_mem (s : State) (o : Operand16) : ((s.operand16 o).2).mem = s.mem := by cases o <;> simp [State.operand16]
@[simp] theorem State.operand16_runState (s : State) (o : Operand16) : ((s.operand16 o).2).runState = s.runState := by cases o <;> simp [State.operand16]
@[simp] theorem State.operand16_requests (s : State) (o : Operand16) : ((s.operand16 o).2).requests = s.requests := by cases o <;> simp [State.operand16]
@[simp] theorem State.operand16_queue (s : State) (o : Operand16) : ((s.operand16 o).2).queue = s.queue := by cases o <;> simp [State.operand16]
@[simp] theorem State.operand16_stale (s : State) (o : Operand16) : ((s.operand16 o).2).stale = s.stale := by cases o <;> simp [State.operand16]
@[simp] theorem State.operand16_progress (s : State) (o : Operand16) : ((s.operand16 o).2).progress = s.progress := by cases o <;> simp [State.operand16]
@[simp] theorem State.operand16_ruleStores (s : State) (o : Operand16) : ((s.operand16 o).2).ruleStores = s.ruleStores := by cases o <;> simp [State.operand16]
@[simp] theorem State.operand16_cfg (s : State) (o : Operand16) : ((s.operand16 o).2).cfg = s.cfg := by cases o <;> simp [State.operand16]

@[simp] theorem State.moveSource8_a (s : State) (o : MoveSource8) : ((s.moveSource8 o).2).a = s.a := by cases o <;> simp [State.moveSource8]
@[simp] theorem State.moveSource8_b (s : State) (o : MoveSource8) : ((s.moveSource8 o).2).b = s.b := by cases o <;> simp [State.moveSource8]
@[simp] theorem State.moveSource8_pc (s : State) (o : MoveSource8) : ((s.moveSource8 o).2).pc = s.pc := by cases o <;> simp [State.moveSource8]
@[simp] theorem State.moveSource8_ccr (s : State) (o : MoveSource8) : ((s.moveSource8 o).2).ccr = s.ccr := by cases o <;> simp [State.moveSource8]
@[simp] theorem State.moveSource8_ppage (s : State) (o : MoveSource8) : ((s.moveSource8 o).2).ppage = s.ppage := by cases o <;> simp [State.moveSource8]
@[simp] theorem State.moveSource8_mem (s : State) (o : MoveSource8) : ((s.moveSource8 o).2).mem = s.mem := by cases o <;> simp [State.moveSource8]
@[simp] theorem State.moveSource8_runState (s : State) (o : MoveSource8) : ((s.moveSource8 o).2).runState = s.runState := by cases o <;> simp [State.moveSource8]
@[simp] theorem State.moveSource8_requests (s : State) (o : MoveSource8) : ((s.moveSource8 o).2).requests = s.requests := by cases o <;> simp [State.moveSource8]
@[simp] theorem State.moveSource8_queue (s : State) (o : MoveSource8) : ((s.moveSource8 o).2).queue = s.queue := by cases o <;> simp [State.moveSource8]
@[simp] theorem State.moveSource8_stale (s : State) (o : MoveSource8) : ((s.moveSource8 o).2).stale = s.stale := by cases o <;> simp [State.moveSource8]
@[simp] theorem State.moveSource8_progress (s : State) (o : MoveSource8) : ((s.moveSource8 o).2).progress = s.progress := by cases o <;> simp [State.moveSource8]
@[simp] theorem State.moveSource8_ruleStores (s : State) (o : MoveSource8) : ((s.moveSource8 o).2).ruleStores = s.ruleStores := by cases o <;> simp [State.moveSource8]
@[simp] theorem State.moveSource8_cfg (s : State) (o : MoveSource8) : ((s.moveSource8 o).2).cfg = s.cfg := by cases o <;> simp [State.moveSource8]

@[simp] theorem State.moveSource16_a (s : State) (o : MoveSource16) : ((s.moveSource16 o).2).a = s.a := by cases o <;> simp [State.moveSource16]
@[simp] theorem State.moveSource16_b (s : State) (o : MoveSource16) : ((s.moveSource16 o).2).b = s.b := by cases o <;> simp [State.moveSource16]
@[simp] theorem State.moveSource16_pc (s : State) (o : MoveSource16) : ((s.moveSource16 o).2).pc = s.pc := by cases o <;> simp [State.moveSource16]
@[simp] theorem State.moveSource16_ccr (s : State) (o : MoveSource16) : ((s.moveSource16 o).2).ccr = s.ccr := by cases o <;> simp [State.moveSource16]
@[simp] theorem State.moveSource16_ppage (s : State) (o : MoveSource16) : ((s.moveSource16 o).2).ppage = s.ppage := by cases o <;> simp [State.moveSource16]
@[simp] theorem State.moveSource16_mem (s : State) (o : MoveSource16) : ((s.moveSource16 o).2).mem = s.mem := by cases o <;> simp [State.moveSource16]
@[simp] theorem State.moveSource16_runState (s : State) (o : MoveSource16) : ((s.moveSource16 o).2).runState = s.runState := by cases o <;> simp [State.moveSource16]
@[simp] theorem State.moveSource16_requests (s : State) (o : MoveSource16) : ((s.moveSource16 o).2).requests = s.requests := by cases o <;> simp [State.moveSource16]
@[simp] theorem State.moveSource16_queue (s : State) (o : MoveSource16) : ((s.moveSource16 o).2).queue = s.queue := by cases o <;> simp [State.moveSource16]
@[simp] theorem State.moveSource16_stale (s : State) (o : MoveSource16) : ((s.moveSource16 o).2).stale = s.stale := by cases o <;> simp [State.moveSource16]
@[simp] theorem State.moveSource16_progress (s : State) (o : MoveSource16) : ((s.moveSource16 o).2).progress = s.progress := by cases o <;> simp [State.moveSource16]
@[simp] theorem State.moveSource16_ruleStores (s : State) (o : MoveSource16) : ((s.moveSource16 o).2).ruleStores = s.ruleStores := by cases o <;> simp [State.moveSource16]
@[simp] theorem State.moveSource16_cfg (s : State) (o : MoveSource16) : ((s.moveSource16 o).2).cfg = s.cfg := by cases o <;> simp [State.moveSource16]

@[simp] theorem State.write8_a (s : State) (a : Word) (v : Byte) : (s.write8 a v).a = s.a := by unfold State.write8; split <;> (try split) <;> rfl
@[simp] theorem State.write8_b (s : State) (a : Word) (v : Byte) : (s.write8 a v).b = s.b := by unfold State.write8; split <;> (try split) <;> rfl
@[simp] theorem State.write8_x (s : State) (a : Word) (v : Byte) : (s.write8 a v).x = s.x := by unfold State.write8; split <;> (try split) <;> rfl
@[simp] theorem State.write8_y (s : State) (a : Word) (v : Byte) : (s.write8 a v).y = s.y := by unfold State.write8; split <;> (try split) <;> rfl
@[simp] theorem State.write8_sp (s : State) (a : Word) (v : Byte) : (s.write8 a v).sp = s.sp := by unfold State.write8; split <;> (try split) <;> rfl
@[simp] theorem State.write8_pc (s : State) (a : Word) (v : Byte) : (s.write8 a v).pc = s.pc := by unfold State.write8; split <;> (try split) <;> rfl
@[simp] theorem State.write8_ccr (s : State) (a : Word) (v : Byte) : (s.write8 a v).ccr = s.ccr := by unfold State.write8; split <;> (try split) <;> rfl
@[simp] theorem State.write8_runState (s : State) (a : Word) (v : Byte) : (s.write8 a v).runState = s.runState := by unfold State.write8; split <;> (try split) <;> rfl
@[simp] theorem State.write8_requests (s : State) (a : Word) (v : Byte) : (s.write8 a v).requests = s.requests := by unfold State.write8; split <;> (try split) <;> rfl
@[simp] theorem State.write8_queue (s : State) (a : Word) (v : Byte) : (s.write8 a v).queue = s.queue := by unfold State.write8; split <;> (try split) <;> rfl
@[simp] theorem State.write8_progress (s : State) (a : Word) (v : Byte) : (s.write8 a v).progress = s.progress := by unfold State.write8; split <;> (try split) <;> rfl
@[simp] theorem State.write8_ruleStores (s : State) (a : Word) (v : Byte) : (s.write8 a v).ruleStores = s.ruleStores := by unfold State.write8; split <;> (try split) <;> rfl
@[simp] theorem State.write8_draws (s : State) (a : Word) (v : Byte) : (s.write8 a v).draws = s.draws := by unfold State.write8; split <;> (try split) <;> rfl
@[simp] theorem State.write8_cfg (s : State) (a : Word) (v : Byte) : (s.write8 a v).cfg = s.cfg := by unfold State.write8; split <;> (try split) <;> rfl

@[simp] theorem State.write16_a (s : State) (a v : Word) : (s.write16 a v).a = s.a := by simp [State.write16]
@[simp] theorem State.write16_b (s : State) (a v : Word) : (s.write16 a v).b = s.b := by simp [State.write16]
@[simp] theorem State.write16_x (s : State) (a v : Word) : (s.write16 a v).x = s.x := by simp [State.write16]
@[simp] theorem State.write16_y (s : State) (a v : Word) : (s.write16 a v).y = s.y := by simp [State.write16]
@[simp] theorem State.write16_sp (s : State) (a v : Word) : (s.write16 a v).sp = s.sp := by simp [State.write16]
@[simp] theorem State.write16_pc (s : State) (a v : Word) : (s.write16 a v).pc = s.pc := by simp [State.write16]
@[simp] theorem State.write16_ccr (s : State) (a v : Word) : (s.write16 a v).ccr = s.ccr := by simp [State.write16]
@[simp] theorem State.write16_runState (s : State) (a v : Word) : (s.write16 a v).runState = s.runState := by simp [State.write16]
@[simp] theorem State.write16_requests (s : State) (a v : Word) : (s.write16 a v).requests = s.requests := by simp [State.write16]
@[simp] theorem State.write16_queue (s : State) (a v : Word) : (s.write16 a v).queue = s.queue := by simp [State.write16]
@[simp] theorem State.write16_progress (s : State) (a v : Word) : (s.write16 a v).progress = s.progress := by simp [State.write16]
@[simp] theorem State.write16_ruleStores (s : State) (a v : Word) : (s.write16 a v).ruleStores = s.ruleStores := by simp [State.write16]
@[simp] theorem State.write16_draws (s : State) (a v : Word) : (s.write16 a v).draws = s.draws := by simp [State.write16]
@[simp] theorem State.write16_cfg (s : State) (a v : Word) : (s.write16 a v).cfg = s.cfg := by simp [State.write16]

@[simp] theorem State.push8_a (s : State) (v : Byte) : (s.push8 v).a = s.a := by simp [State.push8]
@[simp] theorem State.push8_b (s : State) (v : Byte) : (s.push8 v).b = s.b := by simp [State.push8]
@[simp] theorem State.push8_x (s : State) (v : Byte) : (s.push8 v).x = s.x := by simp [State.push8]
@[simp] theorem State.push8_y (s : State) (v : Byte) : (s.push8 v).y = s.y := by simp [State.push8]
@[simp] theorem State.push8_sp (s : State) (v : Byte) : (s.push8 v).sp = s.sp - 1 := by simp [State.push8]
@[simp] theorem State.push8_pc (s : State) (v : Byte) : (s.push8 v).pc = s.pc := by simp [State.push8]
@[simp] theorem State.push8_ccr (s : State) (v : Byte) : (s.push8 v).ccr = s.ccr := by simp [State.push8]
@[simp] theorem State.push8_runState (s : State) (v : Byte) : (s.push8 v).runState = s.runState := by simp [State.push8]
@[simp] theorem State.push8_requests (s : State) (v : Byte) : (s.push8 v).requests = s.requests := by simp [State.push8]
@[simp] theorem State.push8_queue (s : State) (v : Byte) : (s.push8 v).queue = s.queue := by simp [State.push8]
@[simp] theorem State.push8_progress (s : State) (v : Byte) : (s.push8 v).progress = s.progress := by simp [State.push8]
@[simp] theorem State.push8_ruleStores (s : State) (v : Byte) : (s.push8 v).ruleStores = s.ruleStores := by simp [State.push8]
@[simp] theorem State.push8_draws (s : State) (v : Byte) : (s.push8 v).draws = s.draws := by simp [State.push8]
@[simp] theorem State.push8_cfg (s : State) (v : Byte) : (s.push8 v).cfg = s.cfg := by simp [State.push8]

@[simp] theorem State.push16_a (s : State) (v : Word) : (s.push16 v).a = s.a := by simp [State.push16]
@[simp] theorem State.push16_b (s : State) (v : Word) : (s.push16 v).b = s.b := by simp [State.push16]
@[simp] theorem State.push16_x (s : State) (v : Word) : (s.push16 v).x = s.x := by simp [State.push16]
@[simp] theorem State.push16_y (s : State) (v : Word) : (s.push16 v).y = s.y := by simp [State.push16]
@[simp] theorem State.push16_sp (s : State) (v : Word) : (s.push16 v).sp = s.sp - 2 := by simp [State.push16]
@[simp] theorem State.push16_pc (s : State) (v : Word) : (s.push16 v).pc = s.pc := by simp [State.push16]
@[simp] theorem State.push16_ccr (s : State) (v : Word) : (s.push16 v).ccr = s.ccr := by simp [State.push16]
@[simp] theorem State.push16_runState (s : State) (v : Word) : (s.push16 v).runState = s.runState := by simp [State.push16]
@[simp] theorem State.push16_requests (s : State) (v : Word) : (s.push16 v).requests = s.requests := by simp [State.push16]
@[simp] theorem State.push16_queue (s : State) (v : Word) : (s.push16 v).queue = s.queue := by simp [State.push16]
@[simp] theorem State.push16_progress (s : State) (v : Word) : (s.push16 v).progress = s.progress := by simp [State.push16]
@[simp] theorem State.push16_ruleStores (s : State) (v : Word) : (s.push16 v).ruleStores = s.ruleStores := by simp [State.push16]
@[simp] theorem State.push16_draws (s : State) (v : Word) : (s.push16 v).draws = s.draws := by simp [State.push16]
@[simp] theorem State.push16_cfg (s : State) (v : Word) : (s.push16 v).cfg = s.cfg := by simp [State.push16]

@[simp] theorem State.stackFrame_a (s : State) (v : Word) : (s.stackFrame v).a = s.a := by simp [State.stackFrame]
@[simp] theorem State.stackFrame_b (s : State) (v : Word) : (s.stackFrame v).b = s.b := by simp [State.stackFrame]
@[simp] theorem State.stackFrame_x (s : State) (v : Word) : (s.stackFrame v).x = s.x := by simp [State.stackFrame]
@[simp] theorem State.stackFrame_y (s : State) (v : Word) : (s.stackFrame v).y = s.y := by simp [State.stackFrame]
@[simp] theorem State.stackFrame_pc (s : State) (v : Word) : (s.stackFrame v).pc = s.pc := by simp [State.stackFrame]
@[simp] theorem State.stackFrame_ccr (s : State) (v : Word) : (s.stackFrame v).ccr = s.ccr := by simp [State.stackFrame]
@[simp] theorem State.stackFrame_runState (s : State) (v : Word) : (s.stackFrame v).runState = s.runState := by simp [State.stackFrame]
@[simp] theorem State.stackFrame_requests (s : State) (v : Word) : (s.stackFrame v).requests = s.requests := by simp [State.stackFrame]
@[simp] theorem State.stackFrame_queue (s : State) (v : Word) : (s.stackFrame v).queue = s.queue := by simp [State.stackFrame]
@[simp] theorem State.stackFrame_progress (s : State) (v : Word) : (s.stackFrame v).progress = s.progress := by simp [State.stackFrame]
@[simp] theorem State.stackFrame_ruleStores (s : State) (v : Word) : (s.stackFrame v).ruleStores = s.ruleStores := by simp [State.stackFrame]
@[simp] theorem State.stackFrame_draws (s : State) (v : Word) : (s.stackFrame v).draws = s.draws := by simp [State.stackFrame]
@[simp] theorem State.stackFrame_cfg (s : State) (v : Word) : (s.stackFrame v).cfg = s.cfg := by simp [State.stackFrame]

@[simp] theorem State.callTarget_a (s : State) (t : CallTarget) : ((s.callTarget t).2.2).a = s.a := by cases t <;> simp [State.callTarget, State.callPointer]
@[simp] theorem State.callTarget_b (s : State) (t : CallTarget) : ((s.callTarget t).2.2).b = s.b := by cases t <;> simp [State.callTarget, State.callPointer]
@[simp] theorem State.callTarget_pc (s : State) (t : CallTarget) : ((s.callTarget t).2.2).pc = s.pc := by cases t <;> simp [State.callTarget, State.callPointer]
@[simp] theorem State.callTarget_ccr (s : State) (t : CallTarget) : ((s.callTarget t).2.2).ccr = s.ccr := by cases t <;> simp [State.callTarget, State.callPointer]
@[simp] theorem State.callTarget_ppage (s : State) (t : CallTarget) : ((s.callTarget t).2.2).ppage = s.ppage := by cases t <;> simp [State.callTarget, State.callPointer]
@[simp] theorem State.callTarget_mem (s : State) (t : CallTarget) : ((s.callTarget t).2.2).mem = s.mem := by cases t <;> simp [State.callTarget, State.callPointer]
@[simp] theorem State.callTarget_runState (s : State) (t : CallTarget) : ((s.callTarget t).2.2).runState = s.runState := by cases t <;> simp [State.callTarget, State.callPointer]
@[simp] theorem State.callTarget_requests (s : State) (t : CallTarget) : ((s.callTarget t).2.2).requests = s.requests := by cases t <;> simp [State.callTarget, State.callPointer]
@[simp] theorem State.callTarget_queue (s : State) (t : CallTarget) : ((s.callTarget t).2.2).queue = s.queue := by cases t <;> simp [State.callTarget, State.callPointer]
@[simp] theorem State.callTarget_stale (s : State) (t : CallTarget) : ((s.callTarget t).2.2).stale = s.stale := by cases t <;> simp [State.callTarget, State.callPointer]
@[simp] theorem State.callTarget_progress (s : State) (t : CallTarget) : ((s.callTarget t).2.2).progress = s.progress := by cases t <;> simp [State.callTarget, State.callPointer]
@[simp] theorem State.callTarget_ruleStores (s : State) (t : CallTarget) : ((s.callTarget t).2.2).ruleStores = s.ruleStores := by cases t <;> simp [State.callTarget, State.callPointer]
@[simp] theorem State.callTarget_cfg (s : State) (t : CallTarget) : ((s.callTarget t).2.2).cfg = s.cfg := by cases t <;> simp [State.callTarget, State.callPointer]

@[simp] theorem State.programWord_a (s : State) (a : Word) : ((s.programWord a).2).a = s.a := by unfold State.programWord; split <;> simp
@[simp] theorem State.programWord_b (s : State) (a : Word) : ((s.programWord a).2).b = s.b := by unfold State.programWord; split <;> simp
@[simp] theorem State.programWord_x (s : State) (a : Word) : ((s.programWord a).2).x = s.x := by unfold State.programWord; split <;> simp
@[simp] theorem State.programWord_y (s : State) (a : Word) : ((s.programWord a).2).y = s.y := by unfold State.programWord; split <;> simp
@[simp] theorem State.programWord_sp (s : State) (a : Word) : ((s.programWord a).2).sp = s.sp := by unfold State.programWord; split <;> simp
@[simp] theorem State.programWord_pc (s : State) (a : Word) : ((s.programWord a).2).pc = s.pc := by unfold State.programWord; split <;> simp
@[simp] theorem State.programWord_ccr (s : State) (a : Word) : ((s.programWord a).2).ccr = s.ccr := by unfold State.programWord; split <;> simp
@[simp] theorem State.programWord_ppage (s : State) (a : Word) : ((s.programWord a).2).ppage = s.ppage := by unfold State.programWord; split <;> simp
@[simp] theorem State.programWord_mem (s : State) (a : Word) : ((s.programWord a).2).mem = s.mem := by unfold State.programWord; split <;> simp
@[simp] theorem State.programWord_runState (s : State) (a : Word) : ((s.programWord a).2).runState = s.runState := by unfold State.programWord; split <;> simp
@[simp] theorem State.programWord_requests (s : State) (a : Word) : ((s.programWord a).2).requests = s.requests := by unfold State.programWord; split <;> simp
@[simp] theorem State.programWord_queue (s : State) (a : Word) : ((s.programWord a).2).queue = s.queue := by unfold State.programWord; split <;> simp
@[simp] theorem State.programWord_stale (s : State) (a : Word) : ((s.programWord a).2).stale = s.stale := by unfold State.programWord; split <;> simp
@[simp] theorem State.programWord_progress (s : State) (a : Word) : ((s.programWord a).2).progress = s.progress := by unfold State.programWord; split <;> simp
@[simp] theorem State.programWord_ruleStores (s : State) (a : Word) : ((s.programWord a).2).ruleStores = s.ruleStores := by unfold State.programWord; split <;> simp
@[simp] theorem State.programWord_cfg (s : State) (a : Word) : ((s.programWord a).2).cfg = s.cfg := by unfold State.programWord; split <;> simp

@[simp] theorem State.fetch8_a (s : State) (c : Host.Cell) : ((s.fetch8 c).2).a = s.a := by unfold State.fetch8; split <;> simp
@[simp] theorem State.fetch8_b (s : State) (c : Host.Cell) : ((s.fetch8 c).2).b = s.b := by unfold State.fetch8; split <;> simp
@[simp] theorem State.fetch8_x (s : State) (c : Host.Cell) : ((s.fetch8 c).2).x = s.x := by unfold State.fetch8; split <;> simp
@[simp] theorem State.fetch8_y (s : State) (c : Host.Cell) : ((s.fetch8 c).2).y = s.y := by unfold State.fetch8; split <;> simp
@[simp] theorem State.fetch8_sp (s : State) (c : Host.Cell) : ((s.fetch8 c).2).sp = s.sp := by unfold State.fetch8; split <;> simp
@[simp] theorem State.fetch8_pc (s : State) (c : Host.Cell) : ((s.fetch8 c).2).pc = s.pc := by unfold State.fetch8; split <;> simp
@[simp] theorem State.fetch8_ccr (s : State) (c : Host.Cell) : ((s.fetch8 c).2).ccr = s.ccr := by unfold State.fetch8; split <;> simp
@[simp] theorem State.fetch8_ppage (s : State) (c : Host.Cell) : ((s.fetch8 c).2).ppage = s.ppage := by unfold State.fetch8; split <;> simp
@[simp] theorem State.fetch8_mem (s : State) (c : Host.Cell) : ((s.fetch8 c).2).mem = s.mem := by unfold State.fetch8; split <;> simp
@[simp] theorem State.fetch8_runState (s : State) (c : Host.Cell) : ((s.fetch8 c).2).runState = s.runState := by unfold State.fetch8; split <;> simp
@[simp] theorem State.fetch8_requests (s : State) (c : Host.Cell) : ((s.fetch8 c).2).requests = s.requests := by unfold State.fetch8; split <;> simp
@[simp] theorem State.fetch8_queue (s : State) (c : Host.Cell) : ((s.fetch8 c).2).queue = s.queue := by unfold State.fetch8; split <;> simp
@[simp] theorem State.fetch8_stale (s : State) (c : Host.Cell) : ((s.fetch8 c).2).stale = s.stale := by unfold State.fetch8; split <;> simp
@[simp] theorem State.fetch8_progress (s : State) (c : Host.Cell) : ((s.fetch8 c).2).progress = s.progress := by unfold State.fetch8; split <;> simp
@[simp] theorem State.fetch8_ruleStores (s : State) (c : Host.Cell) : ((s.fetch8 c).2).ruleStores = s.ruleStores := by unfold State.fetch8; split <;> simp
@[simp] theorem State.fetch8_cfg (s : State) (c : Host.Cell) : ((s.fetch8 c).2).cfg = s.cfg := by unfold State.fetch8; split <;> simp

/-- Drawing flags changes CCR and the counter alone. -/
theorem State.drawFlags_frame (fs : List Flag) (s : State) :
    ∃ c n, s.drawFlags fs = { s with ccr := c, draws := n } := by
  induction fs generalizing s with
  | nil => exact ⟨s.ccr, s.draws, rfl⟩
  | cons f fs ih =>
    obtain ⟨c, n, h⟩ := ih (s.drawFlag f)
    exact ⟨c, n, h⟩

@[simp] theorem State.drawFlags_a (s : State) (fs : List Flag) : (s.drawFlags fs).a = s.a := by obtain ⟨c, n, h⟩ := State.drawFlags_frame fs s; rw [h]
@[simp] theorem State.drawFlags_b (s : State) (fs : List Flag) : (s.drawFlags fs).b = s.b := by obtain ⟨c, n, h⟩ := State.drawFlags_frame fs s; rw [h]
@[simp] theorem State.drawFlags_x (s : State) (fs : List Flag) : (s.drawFlags fs).x = s.x := by obtain ⟨c, n, h⟩ := State.drawFlags_frame fs s; rw [h]
@[simp] theorem State.drawFlags_y (s : State) (fs : List Flag) : (s.drawFlags fs).y = s.y := by obtain ⟨c, n, h⟩ := State.drawFlags_frame fs s; rw [h]
@[simp] theorem State.drawFlags_sp (s : State) (fs : List Flag) : (s.drawFlags fs).sp = s.sp := by obtain ⟨c, n, h⟩ := State.drawFlags_frame fs s; rw [h]
@[simp] theorem State.drawFlags_pc (s : State) (fs : List Flag) : (s.drawFlags fs).pc = s.pc := by obtain ⟨c, n, h⟩ := State.drawFlags_frame fs s; rw [h]
@[simp] theorem State.drawFlags_ppage (s : State) (fs : List Flag) : (s.drawFlags fs).ppage = s.ppage := by obtain ⟨c, n, h⟩ := State.drawFlags_frame fs s; rw [h]
@[simp] theorem State.drawFlags_mem (s : State) (fs : List Flag) : (s.drawFlags fs).mem = s.mem := by obtain ⟨c, n, h⟩ := State.drawFlags_frame fs s; rw [h]
@[simp] theorem State.drawFlags_runState (s : State) (fs : List Flag) : (s.drawFlags fs).runState = s.runState := by obtain ⟨c, n, h⟩ := State.drawFlags_frame fs s; rw [h]
@[simp] theorem State.drawFlags_requests (s : State) (fs : List Flag) : (s.drawFlags fs).requests = s.requests := by obtain ⟨c, n, h⟩ := State.drawFlags_frame fs s; rw [h]
@[simp] theorem State.drawFlags_queue (s : State) (fs : List Flag) : (s.drawFlags fs).queue = s.queue := by obtain ⟨c, n, h⟩ := State.drawFlags_frame fs s; rw [h]
@[simp] theorem State.drawFlags_stale (s : State) (fs : List Flag) : (s.drawFlags fs).stale = s.stale := by obtain ⟨c, n, h⟩ := State.drawFlags_frame fs s; rw [h]
@[simp] theorem State.drawFlags_progress (s : State) (fs : List Flag) : (s.drawFlags fs).progress = s.progress := by obtain ⟨c, n, h⟩ := State.drawFlags_frame fs s; rw [h]
@[simp] theorem State.drawFlags_ruleStores (s : State) (fs : List Flag) : (s.drawFlags fs).ruleStores = s.ruleStores := by obtain ⟨c, n, h⟩ := State.drawFlags_frame fs s; rw [h]
@[simp] theorem State.drawFlags_cfg (s : State) (fs : List Flag) : (s.drawFlags fs).cfg = s.cfg := by obtain ⟨c, n, h⟩ := State.drawFlags_frame fs s; rw [h]
@[simp] theorem State.programWords_a (s : State) (n : Nat) (a : Word) : ((State.programWords n s a).2).a = s.a := by
  induction n generalizing s a with
  | zero => rfl
  | succ n ih => simp [State.programWords, ih]
@[simp] theorem State.programWords_b (s : State) (n : Nat) (a : Word) : ((State.programWords n s a).2).b = s.b := by
  induction n generalizing s a with
  | zero => rfl
  | succ n ih => simp [State.programWords, ih]
@[simp] theorem State.programWords_x (s : State) (n : Nat) (a : Word) : ((State.programWords n s a).2).x = s.x := by
  induction n generalizing s a with
  | zero => rfl
  | succ n ih => simp [State.programWords, ih]
@[simp] theorem State.programWords_y (s : State) (n : Nat) (a : Word) : ((State.programWords n s a).2).y = s.y := by
  induction n generalizing s a with
  | zero => rfl
  | succ n ih => simp [State.programWords, ih]
@[simp] theorem State.programWords_sp (s : State) (n : Nat) (a : Word) : ((State.programWords n s a).2).sp = s.sp := by
  induction n generalizing s a with
  | zero => rfl
  | succ n ih => simp [State.programWords, ih]
@[simp] theorem State.programWords_pc (s : State) (n : Nat) (a : Word) : ((State.programWords n s a).2).pc = s.pc := by
  induction n generalizing s a with
  | zero => rfl
  | succ n ih => simp [State.programWords, ih]
@[simp] theorem State.programWords_ccr (s : State) (n : Nat) (a : Word) : ((State.programWords n s a).2).ccr = s.ccr := by
  induction n generalizing s a with
  | zero => rfl
  | succ n ih => simp [State.programWords, ih]
@[simp] theorem State.programWords_ppage (s : State) (n : Nat) (a : Word) : ((State.programWords n s a).2).ppage = s.ppage := by
  induction n generalizing s a with
  | zero => rfl
  | succ n ih => simp [State.programWords, ih]
@[simp] theorem State.programWords_mem (s : State) (n : Nat) (a : Word) : ((State.programWords n s a).2).mem = s.mem := by
  induction n generalizing s a with
  | zero => rfl
  | succ n ih => simp [State.programWords, ih]
@[simp] theorem State.programWords_runState (s : State) (n : Nat) (a : Word) : ((State.programWords n s a).2).runState = s.runState := by
  induction n generalizing s a with
  | zero => rfl
  | succ n ih => simp [State.programWords, ih]
@[simp] theorem State.programWords_requests (s : State) (n : Nat) (a : Word) : ((State.programWords n s a).2).requests = s.requests := by
  induction n generalizing s a with
  | zero => rfl
  | succ n ih => simp [State.programWords, ih]
@[simp] theorem State.programWords_queue (s : State) (n : Nat) (a : Word) : ((State.programWords n s a).2).queue = s.queue := by
  induction n generalizing s a with
  | zero => rfl
  | succ n ih => simp [State.programWords, ih]
@[simp] theorem State.programWords_stale (s : State) (n : Nat) (a : Word) : ((State.programWords n s a).2).stale = s.stale := by
  induction n generalizing s a with
  | zero => rfl
  | succ n ih => simp [State.programWords, ih]
@[simp] theorem State.programWords_progress (s : State) (n : Nat) (a : Word) : ((State.programWords n s a).2).progress = s.progress := by
  induction n generalizing s a with
  | zero => rfl
  | succ n ih => simp [State.programWords, ih]
@[simp] theorem State.programWords_ruleStores (s : State) (n : Nat) (a : Word) : ((State.programWords n s a).2).ruleStores = s.ruleStores := by
  induction n generalizing s a with
  | zero => rfl
  | succ n ih => simp [State.programWords, ih]
@[simp] theorem State.programWords_cfg (s : State) (n : Nat) (a : Word) : ((State.programWords n s a).2).cfg = s.cfg := by
  induction n generalizing s a with
  | zero => rfl
  | succ n ih => simp [State.programWords, ih]

@[simp] theorem State.fetchCells_a (s : State) (l : List Host.Cell) : ((s.fetchCells l).2).a = s.a := by
  induction l generalizing s with
  | nil => rfl
  | cons c rest ih => simp [State.fetchCells, ih]
@[simp] theorem State.fetchCells_b (s : State) (l : List Host.Cell) : ((s.fetchCells l).2).b = s.b := by
  induction l generalizing s with
  | nil => rfl
  | cons c rest ih => simp [State.fetchCells, ih]
@[simp] theorem State.fetchCells_x (s : State) (l : List Host.Cell) : ((s.fetchCells l).2).x = s.x := by
  induction l generalizing s with
  | nil => rfl
  | cons c rest ih => simp [State.fetchCells, ih]
@[simp] theorem State.fetchCells_y (s : State) (l : List Host.Cell) : ((s.fetchCells l).2).y = s.y := by
  induction l generalizing s with
  | nil => rfl
  | cons c rest ih => simp [State.fetchCells, ih]
@[simp] theorem State.fetchCells_sp (s : State) (l : List Host.Cell) : ((s.fetchCells l).2).sp = s.sp := by
  induction l generalizing s with
  | nil => rfl
  | cons c rest ih => simp [State.fetchCells, ih]
@[simp] theorem State.fetchCells_pc (s : State) (l : List Host.Cell) : ((s.fetchCells l).2).pc = s.pc := by
  induction l generalizing s with
  | nil => rfl
  | cons c rest ih => simp [State.fetchCells, ih]
@[simp] theorem State.fetchCells_ccr (s : State) (l : List Host.Cell) : ((s.fetchCells l).2).ccr = s.ccr := by
  induction l generalizing s with
  | nil => rfl
  | cons c rest ih => simp [State.fetchCells, ih]
@[simp] theorem State.fetchCells_ppage (s : State) (l : List Host.Cell) : ((s.fetchCells l).2).ppage = s.ppage := by
  induction l generalizing s with
  | nil => rfl
  | cons c rest ih => simp [State.fetchCells, ih]
@[simp] theorem State.fetchCells_mem (s : State) (l : List Host.Cell) : ((s.fetchCells l).2).mem = s.mem := by
  induction l generalizing s with
  | nil => rfl
  | cons c rest ih => simp [State.fetchCells, ih]
@[simp] theorem State.fetchCells_runState (s : State) (l : List Host.Cell) : ((s.fetchCells l).2).runState = s.runState := by
  induction l generalizing s with
  | nil => rfl
  | cons c rest ih => simp [State.fetchCells, ih]
@[simp] theorem State.fetchCells_requests (s : State) (l : List Host.Cell) : ((s.fetchCells l).2).requests = s.requests := by
  induction l generalizing s with
  | nil => rfl
  | cons c rest ih => simp [State.fetchCells, ih]
@[simp] theorem State.fetchCells_queue (s : State) (l : List Host.Cell) : ((s.fetchCells l).2).queue = s.queue := by
  induction l generalizing s with
  | nil => rfl
  | cons c rest ih => simp [State.fetchCells, ih]
@[simp] theorem State.fetchCells_stale (s : State) (l : List Host.Cell) : ((s.fetchCells l).2).stale = s.stale := by
  induction l generalizing s with
  | nil => rfl
  | cons c rest ih => simp [State.fetchCells, ih]
@[simp] theorem State.fetchCells_progress (s : State) (l : List Host.Cell) : ((s.fetchCells l).2).progress = s.progress := by
  induction l generalizing s with
  | nil => rfl
  | cons c rest ih => simp [State.fetchCells, ih]
@[simp] theorem State.fetchCells_ruleStores (s : State) (l : List Host.Cell) : ((s.fetchCells l).2).ruleStores = s.ruleStores := by
  induction l generalizing s with
  | nil => rfl
  | cons c rest ih => simp [State.fetchCells, ih]
@[simp] theorem State.fetchCells_cfg (s : State) (l : List Host.Cell) : ((s.fetchCells l).2).cfg = s.cfg := by
  induction l generalizing s with
  | nil => rfl
  | cons c rest ih => simp [State.fetchCells, ih]

@[simp] theorem State.drawBytes_a (s : State) (l : List Word) : (s.drawBytes l).a = s.a := by
  induction l generalizing s with
  | nil => rfl
  | cons c rest ih => simp [State.drawBytes, ih]
@[simp] theorem State.drawBytes_b (s : State) (l : List Word) : (s.drawBytes l).b = s.b := by
  induction l generalizing s with
  | nil => rfl
  | cons c rest ih => simp [State.drawBytes, ih]
@[simp] theorem State.drawBytes_x (s : State) (l : List Word) : (s.drawBytes l).x = s.x := by
  induction l generalizing s with
  | nil => rfl
  | cons c rest ih => simp [State.drawBytes, ih]
@[simp] theorem State.drawBytes_y (s : State) (l : List Word) : (s.drawBytes l).y = s.y := by
  induction l generalizing s with
  | nil => rfl
  | cons c rest ih => simp [State.drawBytes, ih]
@[simp] theorem State.drawBytes_sp (s : State) (l : List Word) : (s.drawBytes l).sp = s.sp := by
  induction l generalizing s with
  | nil => rfl
  | cons c rest ih => simp [State.drawBytes, ih]
@[simp] theorem State.drawBytes_pc (s : State) (l : List Word) : (s.drawBytes l).pc = s.pc := by
  induction l generalizing s with
  | nil => rfl
  | cons c rest ih => simp [State.drawBytes, ih]
@[simp] theorem State.drawBytes_ccr (s : State) (l : List Word) : (s.drawBytes l).ccr = s.ccr := by
  induction l generalizing s with
  | nil => rfl
  | cons c rest ih => simp [State.drawBytes, ih]
@[simp] theorem State.drawBytes_runState (s : State) (l : List Word) : (s.drawBytes l).runState = s.runState := by
  induction l generalizing s with
  | nil => rfl
  | cons c rest ih => simp [State.drawBytes, ih]
@[simp] theorem State.drawBytes_requests (s : State) (l : List Word) : (s.drawBytes l).requests = s.requests := by
  induction l generalizing s with
  | nil => rfl
  | cons c rest ih => simp [State.drawBytes, ih]
@[simp] theorem State.drawBytes_queue (s : State) (l : List Word) : (s.drawBytes l).queue = s.queue := by
  induction l generalizing s with
  | nil => rfl
  | cons c rest ih => simp [State.drawBytes, ih]
@[simp] theorem State.drawBytes_progress (s : State) (l : List Word) : (s.drawBytes l).progress = s.progress := by
  induction l generalizing s with
  | nil => rfl
  | cons c rest ih => simp [State.drawBytes, ih]
@[simp] theorem State.drawBytes_ruleStores (s : State) (l : List Word) : (s.drawBytes l).ruleStores = s.ruleStores := by
  induction l generalizing s with
  | nil => rfl
  | cons c rest ih => simp [State.drawBytes, ih]
@[simp] theorem State.drawBytes_cfg (s : State) (l : List Word) : (s.drawBytes l).cfg = s.cfg := by
  induction l generalizing s with
  | nil => rfl
  | cons c rest ih => simp [State.drawBytes, ih]
@[simp] theorem State.readAhead_a (s : State) : (s.readAhead).a = s.a := by simp [State.readAhead]
@[simp] theorem State.readAhead_b (s : State) : (s.readAhead).b = s.b := by simp [State.readAhead]
@[simp] theorem State.readAhead_x (s : State) : (s.readAhead).x = s.x := by simp [State.readAhead]
@[simp] theorem State.readAhead_y (s : State) : (s.readAhead).y = s.y := by simp [State.readAhead]
@[simp] theorem State.readAhead_sp (s : State) : (s.readAhead).sp = s.sp := by simp [State.readAhead]
@[simp] theorem State.readAhead_pc (s : State) : (s.readAhead).pc = s.pc := by simp [State.readAhead]
@[simp] theorem State.readAhead_ccr (s : State) : (s.readAhead).ccr = s.ccr := by simp [State.readAhead]
@[simp] theorem State.readAhead_ppage (s : State) : (s.readAhead).ppage = s.ppage := by simp [State.readAhead]
@[simp] theorem State.readAhead_mem (s : State) : (s.readAhead).mem = s.mem := by simp [State.readAhead]
@[simp] theorem State.readAhead_runState (s : State) : (s.readAhead).runState = s.runState := by simp [State.readAhead]
@[simp] theorem State.readAhead_requests (s : State) : (s.readAhead).requests = s.requests := by simp [State.readAhead]
@[simp] theorem State.readAhead_stale (s : State) : (s.readAhead).stale = s.stale := by simp [State.readAhead]
@[simp] theorem State.readAhead_progress (s : State) : (s.readAhead).progress = s.progress := by simp [State.readAhead]
@[simp] theorem State.readAhead_ruleStores (s : State) : (s.readAhead).ruleStores = s.ruleStores := by simp [State.readAhead]
@[simp] theorem State.readAhead_cfg (s : State) : (s.readAhead).cfg = s.cfg := by simp [State.readAhead]

@[simp] theorem State.fetchQueue_a (s : State) : (s.fetchQueue.2).a = s.a := by simp [State.fetchQueue]
@[simp] theorem State.fetchQueue_b (s : State) : (s.fetchQueue.2).b = s.b := by simp [State.fetchQueue]
@[simp] theorem State.fetchQueue_x (s : State) : (s.fetchQueue.2).x = s.x := by simp [State.fetchQueue]
@[simp] theorem State.fetchQueue_y (s : State) : (s.fetchQueue.2).y = s.y := by simp [State.fetchQueue]
@[simp] theorem State.fetchQueue_sp (s : State) : (s.fetchQueue.2).sp = s.sp := by simp [State.fetchQueue]
@[simp] theorem State.fetchQueue_pc (s : State) : (s.fetchQueue.2).pc = s.pc := by simp [State.fetchQueue]
@[simp] theorem State.fetchQueue_ccr (s : State) : (s.fetchQueue.2).ccr = s.ccr := by simp [State.fetchQueue]
@[simp] theorem State.fetchQueue_ppage (s : State) : (s.fetchQueue.2).ppage = s.ppage := by simp [State.fetchQueue]
@[simp] theorem State.fetchQueue_mem (s : State) : (s.fetchQueue.2).mem = s.mem := by simp [State.fetchQueue]
@[simp] theorem State.fetchQueue_runState (s : State) : (s.fetchQueue.2).runState = s.runState := by simp [State.fetchQueue]
@[simp] theorem State.fetchQueue_requests (s : State) : (s.fetchQueue.2).requests = s.requests := by simp [State.fetchQueue]
@[simp] theorem State.fetchQueue_queue (s : State) : (s.fetchQueue.2).queue = s.queue := by simp [State.fetchQueue]
@[simp] theorem State.fetchQueue_stale (s : State) : (s.fetchQueue.2).stale = s.stale := by simp [State.fetchQueue]
@[simp] theorem State.fetchQueue_progress (s : State) : (s.fetchQueue.2).progress = s.progress := by simp [State.fetchQueue]
@[simp] theorem State.fetchQueue_ruleStores (s : State) : (s.fetchQueue.2).ruleStores = s.ruleStores := by simp [State.fetchQueue]
@[simp] theorem State.fetchQueue_cfg (s : State) : (s.fetchQueue.2).cfg = s.cfg := by simp [State.fetchQueue]

@[simp] theorem State.fetch_a (s : State) : (s.fetch.2).a = s.a := by simp only [State.fetch]; split <;> simp
@[simp] theorem State.fetch_b (s : State) : (s.fetch.2).b = s.b := by simp only [State.fetch]; split <;> simp
@[simp] theorem State.fetch_x (s : State) : (s.fetch.2).x = s.x := by simp only [State.fetch]; split <;> simp
@[simp] theorem State.fetch_y (s : State) : (s.fetch.2).y = s.y := by simp only [State.fetch]; split <;> simp
@[simp] theorem State.fetch_sp (s : State) : (s.fetch.2).sp = s.sp := by simp only [State.fetch]; split <;> simp
@[simp] theorem State.fetch_pc (s : State) : (s.fetch.2).pc = s.pc := by simp only [State.fetch]; split <;> simp
@[simp] theorem State.fetch_ccr (s : State) : (s.fetch.2).ccr = s.ccr := by simp only [State.fetch]; split <;> simp
@[simp] theorem State.fetch_ppage (s : State) : (s.fetch.2).ppage = s.ppage := by simp only [State.fetch]; split <;> simp
@[simp] theorem State.fetch_mem (s : State) : (s.fetch.2).mem = s.mem := by simp only [State.fetch]; split <;> simp
@[simp] theorem State.fetch_runState (s : State) : (s.fetch.2).runState = s.runState := by simp only [State.fetch]; split <;> simp
@[simp] theorem State.fetch_requests (s : State) : (s.fetch.2).requests = s.requests := by simp only [State.fetch]; split <;> simp
@[simp] theorem State.fetch_stale (s : State) : (s.fetch.2).stale = s.stale := by simp only [State.fetch]; split <;> simp
@[simp] theorem State.fetch_progress (s : State) : (s.fetch.2).progress = s.progress := by simp only [State.fetch]; split <;> simp
@[simp] theorem State.fetch_ruleStores (s : State) : (s.fetch.2).ruleStores = s.ruleStores := by simp only [State.fetch]; split <;> simp
@[simp] theorem State.fetch_cfg (s : State) : (s.fetch.2).cfg = s.cfg := by simp only [State.fetch]; split <;> simp

/-- Reading changes the counter of draws alone. -/
theorem State.read8_frame (s : State) (a : Word) : (s.read8 a).2 = { s with draws := (s.read8 a).2.draws } := by
  unfold State.read8
  split <;> (try split) <;> rfl

/-- Reading a word changes the counter of draws alone. -/
theorem State.read16_frame (s : State) (a : Word) : (s.read16 a).2 = { s with draws := (s.read16 a).2.draws } := by
  simp only [State.read16]
  rw [State.read8_frame (s.read8 a).2 (a + 1), State.read8_frame s a]

/-- What answers at an address depends on the parameters alone. -/
theorem State.kindAt_congr {s t : State} (h : t.cfg = s.cfg) (a : Word) : t.kindAt a = s.kindAt a := by
  simp [State.kindAt, h]

/-- Reading program words changes the counter of draws alone. -/
theorem State.programWord_frame (s : State) (a : Word) :
    (s.programWord a).2 = { s with draws := (s.programWord a).2.draws } := by
  unfold State.programWord
  split
  · rfl
  · exact State.read16_frame s a

/-- The same for several words. -/
theorem State.programWords_frame (n : Nat) (s : State) (a : Word) :
    (State.programWords n s a).2 = { s with draws := (State.programWords n s a).2.draws } := by
  induction n generalizing s a with
  | zero => rfl
  | succ n ih =>
    simp only [State.programWords]
    rw [ih, State.programWord_frame s a]

/-- Reading ahead changes the queue and the counter of draws alone (20_memory.md R100). -/
theorem State.readAhead_frame (s : State) :
    s.readAhead = { s with queue := s.readAhead.queue, draws := s.readAhead.draws } := by
  simp only [State.readAhead]
  rw [State.programWords_frame]

/-- Fetching a byte changes the counter of draws alone. -/
theorem State.fetch8_frame (s : State) (c : Host.Cell) :
    (s.fetch8 c).2 = { s with draws := (s.fetch8 c).2.draws } := by
  unfold State.fetch8
  split
  · rfl
  · simp only
    rw [State.read8_frame]

/-- The same for several bytes. -/
theorem State.fetchCells_frame (l : List Host.Cell) (s : State) :
    (s.fetchCells l).2 = { s with draws := (s.fetchCells l).2.draws } := by
  induction l generalizing s with
  | nil => rfl
  | cons c rest ih =>
    simp only [State.fetchCells]
    rw [ih, State.fetch8_frame s c]

/-- Fetching an instruction changes the queue and the counter of draws alone. -/
theorem State.fetch_frame (s : State) :
    s.fetch.2 = { s with queue := s.fetch.2.queue, draws := s.fetch.2.draws } := by
  simp only [State.fetch]
  split
  · rw [State.fetchCells_frame, State.programWord_frame]
    simp only [State.fetchQueue]
    rw [State.fetchCells_frame, State.readAhead_frame]
  · simp only [State.fetchQueue]
    rw [State.fetchCells_frame, State.readAhead_frame]

end Sys2Proof.Machine
end

