-- ==== Sys2Proof/Laws/Effects.lean ====
section
/-!
SUPPORT. What a program can see after each shared operation: the byte at an address after reads and writes, the flags
after each way of writing CCR, and the frames (`Effect`) of the operations that store nothing.
-/

namespace Sys2Proof.Machine

/-! ## Flags -/

/-- The place of a flag lies in the byte. -/
theorem flagBit_lt (f : Flag) : flagBit f < 8 := by cases f <;> decide

/-- Flags at different places are different flags. -/
theorem flagBit_inj {f g : Flag} : flagBit f = flagBit g ↔ f = g := by cases f <;> cases g <;> decide

/-- Reading a flag after writing one. -/
@[simp] theorem getFlag_setFlag (ccr : Byte) (f g : Flag) (v : Bool) :
    getFlag (setFlag ccr f v) g = if g = f then v else getFlag ccr g := by
  unfold getFlag setFlag
  have hg := flagBit_lt g
  by_cases h : g = f
  · subst h; cases v <;> simp [hg]
  · have this : flagBit f ≠ flagBit g := fun e => h (flagBit_inj.mp e).symm
    have this' : flagBit g ≠ flagBit f := this.symm
    cases v <;> simp [h, this', hg]

/-- Two condition codes with the same flags are equal. -/
theorem ccr_ext {p q : Byte} (h : ∀ f, getFlag p f = getFlag q f) : p = q := by
  apply BitVec.eq_of_getLsbD_eq
  intro i hi
  have : i = 0 ∨ i = 1 ∨ i = 2 ∨ i = 3 ∨ i = 4 ∨ i = 5 ∨ i = 6 ∨ i = 7 := by omega
  rcases this with rfl | rfl | rfl | rfl | rfl | rfl | rfl | rfl
  · exact h .c
  · exact h .v
  · exact h .z
  · exact h .n
  · exact h .i
  · exact h .h
  · exact h .xm
  · exact h .s

/-- The flags after `setNZV`. -/
@[simp] theorem getFlag_setNZV (ccr : Byte) (n z v : Bool) (g : Flag) :
    getFlag (setNZV ccr n z v) g =
      if g = .v then v else if g = .z then z else if g = .n then n else getFlag ccr g := by
  simp [setNZV]

/-- The flags after `setNZVC`. -/
@[simp] theorem getFlag_setNZVC (ccr : Byte) (n z v c : Bool) (g : Flag) :
    getFlag (setNZVC ccr n z v c) g =
      if g = .c then c else if g = .v then v else if g = .z then z else if g = .n then n else getFlag ccr g := by
  simp [setNZVC]

/-- The flags after `WriteCCR` (10_state.md R35). -/
@[simp] theorem getFlag_writeCcr (ccr v : Byte) (g : Flag) :
    getFlag (writeCcr ccr v) g = if g = .xm then getFlag v .xm && getFlag ccr .xm else getFlag v g := by
  unfold getFlag writeCcr
  cases g <;> simp [flagBit]

/-- The bits of a written CCR, given the old X. -/
theorem writeCcr_bits : ∀ (v : Byte) (xm : Bool),
    (v &&& 0xBF) ||| ((v &&& (if xm then 0x40 else 0)) &&& 0x40) =
      BitVec.ofBool (v.getLsbD 7) ++ BitVec.ofBool (v.getLsbD 6 && xm) ++ v.extractLsb' 0 6 := by
  decide +kernel

/-- `WriteCCR` as the statements write it. -/
theorem writeCcr_eq_written8 (s : State) (v : Byte) : writeCcr s.ccr v = s.written8 .ccr v := by
  refine Eq.trans ?_ (writeCcr_bits v (getFlag s.ccr .xm))
  apply ccr_ext
  intro f
  rw [getFlag_writeCcr]
  cases f <;> cases h : getFlag s.ccr .xm <;> simp [getFlag, flagBit]

/-- The flags after a logic operation on a byte. -/
@[simp] theorem getFlag_logicFlags8 (ccr r : Byte) (g : Flag) :
    getFlag (logicFlags8 ccr r) g =
      if g = .v then false else if g = .z then r == 0 else if g = .n then r.msb else getFlag ccr g := by
  simp [logicFlags8]

/-- The flags after a logic operation on a word. -/
@[simp] theorem getFlag_logicFlags16 (ccr : Byte) (r : Word) (g : Flag) :
    getFlag (logicFlags16 ccr r) g =
      if g = .v then false else if g = .z then r == 0 else if g = .n then r.msb else getFlag ccr g := by
  simp [logicFlags16]

/-- The flags after a drawn one: the others are kept. -/
theorem getFlag_drawFlags (fs : List Flag) (s : State) (g : Flag) (h : g ∉ fs) :
    getFlag (s.drawFlags fs).ccr g = getFlag s.ccr g := by
  induction fs generalizing s with
  | nil => rfl
  | cons f rest ih =>
    have hf : g ≠ f := fun e => h (by simp [e])
    have := ih (s.drawFlag f) (fun e => h (by simp [e]))
    simpa [State.drawFlags, State.drawFlag, hf] using this

/-- N, Z and V as a byte's logic flags give them. -/
theorem flagsNZV8_logic (t : State) (ccr r : Byte) (h : t.ccr = logicFlags8 ccr r) : FlagsNZV8 t r false := by
  constructor <;> simp [h, BitVec.msb_eq_getLsbD_last]; rfl

/-- N, Z and V as a word's logic flags give them. -/
theorem flagsNZV16_logic (t : State) (ccr : Byte) (r : Word) (h : t.ccr = logicFlags16 ccr r) :
    FlagsNZV16 t r false := by
  constructor <;> simp [h, BitVec.msb_eq_getLsbD_last]; rfl

/-! ## What an address holds -/

/-- The byte at an address depends on memory, PPAGE and the parameters alone. -/
theorem State.peek_congr {s t : State} (hm : t.mem = s.mem) (hp : t.ppage = s.ppage) (hc : t.cfg = s.cfg) (x : Word) :
    t.peek x = s.peek x := by
  simp [State.peek, hm, hp, hc]

/-- Whether an address can be written depends on the parameters alone. -/
theorem State.writable_congr {s t : State} (hc : t.cfg = s.cfg) (x : Word) : t.writable x = s.writable x := by
  simp [State.writable, State.kindAt, hc]

/-- Whether an address can be read back depends on the parameters alone. -/
theorem State.plain_congr {s t : State} (hc : t.cfg = s.cfg) (x : Word) : t.plain x = s.plain x := by
  simp [State.plain, State.kindAt, hc]

/-- What can be written can be read back. -/
theorem State.plain_of_writable {s : State} {x : Word} (h : s.writable x = true) : s.plain x = true := by
  simp only [State.writable, State.plain, Bool.or_eq_true] at *
  exact .inl h

/-- A read of an address that can be read back answers what it holds and changes nothing. -/
theorem State.read8_plain {s : State} {a : Word} (h : s.plain a = true) : s.read8 a = (s.peek a, s) := by
  unfold State.read8 State.peek
  unfold State.plain at h
  by_cases hp : s.cfg.ppageAddr = some a
  · simp [hp]
  · simp only [hp, decide_false, Bool.false_or, if_false] at *
    cases hk : s.kindAt a <;> simp [hk] at h ⊢

/-- The same for a word. -/
theorem State.read16_plain {s : State} {a : Word} (h : s.plain a = true) (h' : s.plain (a + 1) = true) :
    s.read16 a = (s.peek16 a, s) := by
  simp only [State.read16, State.read8_plain h, State.read8_plain h', State.peek16]

/-- Addresses are equal where their numbers are. -/
theorem word_toNat_ne {x a : Word} (h : x ≠ a) : x.toNat ≠ a.toNat := fun e => h (BitVec.eq_of_toNat_eq e)

/-- What an address holds after a byte store (00_scope.md R9). -/
theorem State.peek_write8 {s : State} (hm : Memory.wf s.mem = true) (a : Word) (v : Byte) (x : Word) :
    (s.write8 a v).peek x = s.overlay [(a, v)] x := by
  unfold State.write8 State.overlay State.overlay State.writable
  by_cases hp : s.cfg.ppageAddr = some a
  · by_cases hx : x = a
    · simp [hp, State.peek, hx]
    · have : ¬ a = x := fun e => hx e.symm
      simp [hp, State.peek, hx, this]
  · cases hk : s.kindAt a <;> simp only [hp, if_false, decide_false, Bool.false_or]
    · by_cases hx : x = a
      · subst hx; simp [State.peek, hp, Memory.read_write hm]
      · simp [State.peek, Memory.read_write hm, word_toNat_ne hx, hx]
    all_goals simp

/-- A byte store keeps the canonical form. -/
theorem State.wf_write8 {s : State} (hm : Memory.wf s.mem = true) (a : Word) (v : Byte) :
    Memory.wf (s.write8 a v).mem = true := by
  unfold State.write8
  split
  · exact hm
  · split <;> try exact hm
    exact Memory.wf_write a.isLt hm

/-- A word store keeps the canonical form. -/
theorem State.wf_write16 {s : State} (hm : Memory.wf s.mem = true) (a : Word) (v : Word) :
    Memory.wf (s.write16 a v).mem = true := State.wf_write8 (State.wf_write8 hm _ _) _ _

/-- The overlay of stores depends on what addresses hold and which can be written. -/
theorem State.overlay_congr {s t : State} (hp : ∀ x, t.peek x = s.peek x) (hc : t.cfg = s.cfg)
    (l : List (Word × Byte)) (x : Word) : t.overlay l x = s.overlay l x := by
  induction l with
  | nil => exact hp x
  | cons c rest ih => simp [State.overlay, ih, State.writable_congr hc]

/-- Stores after stores. -/
theorem State.overlay_append {s t : State} {l : List (Word × Byte)} (hp : ∀ x, t.peek x = s.overlay l x)
    (hc : t.cfg = s.cfg) (k : List (Word × Byte)) (x : Word) : t.overlay k x = s.overlay (k ++ l) x := by
  induction k with
  | nil => exact hp x
  | cons c rest ih => simp [State.overlay, ih, State.writable_congr hc]

/-- What an address holds after a word store. -/
theorem State.peek_write16 {s : State} (hm : Memory.wf s.mem = true) (a v x : Word) :
    (s.write16 a v).peek x = s.overlay (wordStores a v) x := by
  unfold State.write16
  rw [State.peek_write8 (State.wf_write8 hm _ _)]
  exact State.overlay_append (State.peek_write8 hm a _) (by simp) _ x

/-- Where PPAGE is not mapped at the stored address it is kept. -/
theorem State.ppage_write8 {s : State} {a : Word} (v : Byte) (h : s.cfg.ppageAddr ≠ some a) :
    (s.write8 a v).ppage = s.ppage := by
  unfold State.write8
  simp only [h, if_false]
  split <;> rfl

/-- The same for a word. -/
theorem State.ppage_write16 {s : State} {a v : Word} (h : s.cfg.ppageAddr ≠ some a)
    (h' : s.cfg.ppageAddr ≠ some (a + 1)) : (s.write16 a v).ppage = s.ppage := by
  unfold State.write16
  rw [State.ppage_write8 _ (by simpa using h'), State.ppage_write8 _ h]

/-! ## The stack -/

/-- What an address holds after `Push8` (00_scope.md R10). -/
theorem State.peek_push8 {s : State} (hm : Memory.wf s.mem = true) (v : Byte) (x : Word) :
    (s.push8 v).peek x = s.overlay [(s.sp - 1, v)] x := by
  unfold State.push8
  rw [State.peek_write8 (s := { s with sp := s.sp - 1 }) hm]
  exact State.overlay_congr (fun _ => rfl) rfl _ x

/-- What an address holds after `Push16` (00_scope.md R10). -/
theorem State.peek_push16 {s : State} (hm : Memory.wf s.mem = true) (v x : Word) :
    (s.push16 v).peek x = s.overlay (wordStores (s.sp - 2) v) x := by
  unfold State.push16
  rw [State.peek_write16 (s := { s with sp := s.sp - 2 }) hm]
  exact State.overlay_congr (fun _ => rfl) rfl _ x

/-- `Push8` keeps the canonical form. -/
theorem State.wf_push8 {s : State} (hm : Memory.wf s.mem = true) (v : Byte) : Memory.wf (s.push8 v).mem = true :=
  State.wf_write8 (s := { s with sp := s.sp - 1 }) hm _ _

/-- `Push16` keeps the canonical form. -/
theorem State.wf_push16 {s : State} (hm : Memory.wf s.mem = true) (v : Word) : Memory.wf (s.push16 v).mem = true :=
  State.wf_write16 (s := { s with sp := s.sp - 2 }) hm _ _

/-- `Push8` where PPAGE is not mapped. -/
theorem State.ppage_push8 {s : State} (v : Byte) (h : s.cfg.ppageAddr ≠ some (s.sp - 1)) :
    (s.push8 v).ppage = s.ppage := State.ppage_write8 (s := { s with sp := s.sp - 1 }) v h

/-- `Push16` where PPAGE is not mapped. -/
theorem State.ppage_push16 {s : State} (v : Word) (h : s.cfg.ppageAddr ≠ some (s.sp - 2))
    (h' : s.cfg.ppageAddr ≠ some (s.sp - 1)) : (s.push16 v).ppage = s.ppage := by
  refine State.ppage_write16 (s := { s with sp := s.sp - 2 }) h ?_
  have : s.sp - 2 + 1 = s.sp - 1 := by bv_omega
  show s.cfg.ppageAddr ≠ some (s.sp - 2 + 1)
  rwa [this]

/-- The frame of an exception stores the nine bytes of 47_system.md R544 and nothing else. -/
theorem State.peek_stackFrame {s : State} (hm : Memory.wf s.mem = true) (rtn x : Word) :
    (s.stackFrame rtn).peek x = s.overlay (s.frameStores rtn) x := by
  have step : ∀ (t : State) (l : List (Word × Byte)) (n k : Word) (v : Word), Memory.wf t.mem = true →
      t.sp = s.sp - n → t.cfg = s.cfg → n + 2 = k → (∀ z, t.peek z = s.overlay l z) →
      ∀ z, (t.push16 v).peek z = s.overlay (wordStores (s.sp - k) v ++ l) z := by
    intro t l n k v ht hsp hc hk hp z
    have e : t.sp - 2 = s.sp - k := by rw [hsp, ← hk]; bv_omega
    rw [State.peek_push16 ht, e]
    exact State.overlay_append hp hc _ z
  have h1 := State.wf_push16 hm rtn
  have h2 := State.wf_push16 h1 s.y
  have h3 := State.wf_push16 h2 s.x
  have h4 := State.wf_push16 h3 (s.b ++ s.a)
  have k1 := step s [] 0 2 rtn hm (by simp) rfl rfl fun _ => rfl
  have k2 := step _ _ 2 4 s.y h1 (by simp) (by simp) rfl k1
  have k3 := step _ _ 4 6 s.x h2 (by simp; bv_omega) (by simp) rfl k2
  have k4 := step _ _ 6 8 (s.b ++ s.a) h3 (by simp; bv_omega) (by simp) rfl k3
  have e : (((s.push16 rtn).push16 s.y).push16 s.x |>.push16 (s.b ++ s.a)).sp - 1 = s.sp - 9 := by
    simp only [State.push16_sp]; bv_omega
  rw [State.stackFrame, State.peek_push8 h4, e]
  exact State.overlay_append k4 (by simp) _ x

/-! ## Frames -/

/-- A change that stores nothing, from its fields. -/
theorem Effect.quiet {s t : State} {regs : List RegName} {flags : List Flag}
    (hr : ∀ r, r ∉ regs → t.reg r = s.reg r) (hf : ∀ f, f ∉ flags → getFlag t.ccr f = getFlag s.ccr f)
    (hm : t.mem = s.mem) (hp : t.ppage = s.ppage) (hrun : t.runState = s.runState) (hpr : t.progress = s.progress)
    (hq : t.requests = s.requests) (hc : t.cfg = s.cfg) : Effect s t regs flags [] :=
  ⟨hr, hf, fun _ x => State.peek_congr hm hp hc x, fun _ => hp, hrun, hpr, hq, hc⟩

/-- Nothing changed. -/
theorem Effect.refl (s : State) (regs : List RegName) (flags : List Flag) : Effect s s regs flags [] :=
  Effect.quiet (fun _ _ => rfl) (fun _ _ => rfl) rfl rfl rfl rfl rfl rfl

/-- A frame with more registers and flags. -/
theorem Effect.mono {s t : State} {regs regs' : List RegName} {flags flags' : List Flag} {l : List (Word × Byte)}
    (h : Effect s t regs flags l) (hr : ∀ r, r ∉ regs' → r ∉ regs) (hf : ∀ f, f ∉ flags' → f ∉ flags) :
    Effect s t regs' flags' l :=
  { h with
    registers := fun r hn => h.registers r (hr r hn)
    flagBits := fun f hn => h.flagBits f (hf f hn) }

/-- A change after one that stores nothing and keeps memory. -/
theorem Effect.after {s u t : State} {regs : List RegName} {flags : List Flag} {l : List (Word × Byte)}
    (h : Effect s u regs flags []) (hm : u.mem = s.mem) (h' : Effect u t regs flags l) : Effect s t regs flags l where
  registers := fun r hn => (h'.registers r hn).trans (h.registers r hn)
  flagBits := fun f hn => (h'.flagBits f hn).trans (h.flagBits f hn)
  memory := fun hw x =>
    (h'.memory (by rwa [hm]) x).trans (State.overlay_congr (h.memory (.inl rfl)) h.config l x)
  page := fun hp => (h'.page (by rwa [h.config])).trans (h.page fun _ hc => by simp at hc)
  run := h'.run.trans h.run
  progress := h'.progress.trans h.progress
  requests := h'.requests.trans h.requests
  config := h'.config.trans h.config

/-- Moving PC past an instruction changes nothing else. -/
theorem State.effect_advance (s : State) (i : Instr) (regs : List RegName) (flags : List Flag) :
    Effect s (s.advance i) regs flags [] :=
  Effect.quiet (fun r _ => by cases r <;> rfl) (fun _ _ => rfl) rfl rfl rfl rfl rfl rfl

/-- Reading a byte changes nothing that a program can see. -/
theorem State.effect_read8 (s : State) (a : Word) (regs : List RegName) (flags : List Flag) :
    Effect s (s.read8 a).2 regs flags [] := by
  rw [State.read8_frame]
  exact Effect.quiet (fun r _ => by cases r <;> rfl) (fun _ _ => rfl) rfl rfl rfl rfl rfl rfl

/-- Reading a word changes nothing that a program can see. -/
theorem State.effect_read16 (s : State) (a : Word) (regs : List RegName) (flags : List Flag) :
    Effect s (s.read16 a).2 regs flags [] := by
  rw [State.read16_frame]
  exact Effect.quiet (fun r _ => by cases r <;> rfl) (fun _ _ => rfl) rfl rfl rfl rfl rfl rfl

/-- Writing an automatic base changes that register alone. -/
theorem State.effect_setAutoBase (s : State) (r : AutoBase) (v : Word) :
    Effect s (s.setAutoBase r v) [autoName r] [] [] := by
  refine Effect.quiet (fun n hn => ?_) (fun _ _ => by cases r <;> rfl) ?_ ?_ ?_ ?_ ?_ ?_ <;> cases r <;> try rfl
  all_goals cases n <;> first | rfl | simp [autoName] at hn

/-- Forming an address changes at most the automatic base. -/
theorem State.effect_eaShort (s : State) (f : IdxShort) : Effect s (s.eaShort f).2 (shortAuto f) [] [] := by
  cases f with
  | const5 r n => exact Effect.refl ..
  | pre r n => exact State.effect_setAutoBase ..
  | post r n => exact State.effect_setAutoBase ..
  | acc r o => exact Effect.refl ..

/-- The same for a form without indirection. -/
theorem State.effect_eaDirect (s : State) (f : IdxDirect) : Effect s (s.eaDirect f).2 (directAuto f) [] [] := by
  cases f with
  | short f => exact State.effect_eaShort ..
  | const9 r n => exact Effect.refl ..
  | const16 r n => exact Effect.refl ..

/-- The same for any indexed form. -/
theorem State.effect_eaFull (s : State) (f : IdxFull) : Effect s (s.eaFull f).2 (fullAuto f) [] [] := by
  cases f with
  | direct f => exact State.effect_eaDirect ..
  | indD r => exact State.effect_read16 ..
  | ind16 r n => exact State.effect_read16 ..

/-- The same for a memory operand. -/
theorem State.effect_eaMem (s : State) (m : MemOperand) : Effect s (s.eaMem m).2 (memAuto m) [] [] := by
  cases m with
  | dir a => exact Effect.refl ..
  | ext a => exact Effect.refl ..
  | idx f => exact State.effect_eaFull ..

/-- The same for a read-modify-write operand. -/
theorem State.effect_eaRmw (s : State) (m : RmwOperand) : Effect s (s.eaRmw m).2 (rmwAuto m) [] [] := by
  cases m with
  | ext a => exact Effect.refl ..
  | idx f => exact State.effect_eaFull ..

/-- The same for a bit operand. -/
theorem State.effect_eaBit (s : State) (m : BitOperand) : Effect s (s.eaBit m).2 (bitAuto m) [] [] := by
  cases m with
  | dir a => exact Effect.refl ..
  | ext a => exact Effect.refl ..
  | idx f => exact State.effect_eaDirect ..

/-- The same for the destination of a move. -/
theorem State.effect_eaDest (s : State) (d : MoveDest) : Effect s (s.eaDest d).2 (destAuto d) [] [] := by
  cases d with
  | ext a => exact Effect.refl ..
  | idx f => exact State.effect_eaShort ..

/-- Fetching an 8-bit operand changes at most the automatic base. -/
theorem State.effect_operand8 (s : State) (o : Operand8) : Effect s (s.operand8 o).2 (auto8 o) [] [] := by
  cases o with
  | imm v => exact Effect.refl ..
  | mem m => exact (State.effect_eaMem s m).after (by simp) (State.effect_read8 ..)

/-- Fetching a 16-bit operand changes at most the automatic base. -/
theorem State.effect_operand16 (s : State) (o : Operand16) : Effect s (s.operand16 o).2 (auto16 o) [] [] := by
  cases o with
  | imm v => exact Effect.refl ..
  | mem m => exact (State.effect_eaMem s m).after (by simp) (State.effect_read16 ..)

/-- A byte store changes the byte it stores and nothing else. -/
theorem State.effect_write8 (s : State) (a : Word) (v : Byte) (regs : List RegName) (flags : List Flag) :
    Effect s (s.write8 a v) regs flags [(a, v)] where
  registers := fun r _ => by cases r <;> simp [State.reg]
  flagBits := fun _ _ => by simp
  memory := fun h x => State.peek_write8 (h.resolve_left (by simp)) a v x
  page := fun h => State.ppage_write8 v (h (a, v) (by simp))
  run := by simp
  progress := by simp
  requests := by simp
  config := by simp

/-- A word store changes the two bytes it stores and nothing else. -/
theorem State.effect_write16 (s : State) (a v : Word) (regs : List RegName) (flags : List Flag) :
    Effect s (s.write16 a v) regs flags (wordStores a v) where
  registers := fun r _ => by cases r <;> simp [State.reg]
  flagBits := fun _ _ => by simp
  memory := fun h x => State.peek_write16 (h.resolve_left (by simp [wordStores])) a v x
  page := fun h => State.ppage_write16 (h (a, v.extractLsb' 8 8) (by simp [wordStores]))
    (h (a + 1, v.extractLsb' 0 8) (by simp [wordStores]))
  run := by simp
  progress := by simp
  requests := by simp
  config := by simp

/-- A change of registers and flags alone, after a change with stores. -/
theorem Effect.andThen {s u t : State} {regs : List RegName} {flags : List Flag} {l : List (Word × Byte)}
    (h : Effect s u regs flags l) (h' : Effect u t regs flags []) : Effect s t regs flags l where
  registers := fun r hn => (h'.registers r hn).trans (h.registers r hn)
  flagBits := fun f hn => (h'.flagBits f hn).trans (h.flagBits f hn)
  memory := fun hw x => (h'.memory (.inl rfl) x).trans (h.memory hw x)
  page := fun hp => (h'.page fun _ hc => by simp at hc).trans (h.page hp)
  run := h'.run.trans h.run
  progress := h'.progress.trans h.progress
  requests := h'.requests.trans h.requests
  config := h'.config.trans h.config

/-- Writing CCR changes flags alone. -/
theorem State.effect_setCcr (s : State) (v : Byte) (regs : List RegName) (flags : List Flag)
    (h : ∀ f, f ∉ flags → getFlag v f = getFlag s.ccr f) : Effect s (s.setCcr v) regs flags [] :=
  Effect.quiet (fun r _ => by cases r <;> rfl) h rfl rfl rfl rfl rfl rfl

/-! ## Completion of the shapes -/

/-- An instruction that reads an 8-bit operand and then changes registers and flags completes, with the frame of both. -/
theorem with8_completes {i : Instr} {o : Operand8} {s : State} {f : Byte → State → State} {regs : List RegName}
    {flags : List Flag} {post : State → Prop} (hx : exec i s = .next ((s.advance i).with8 o f))
    (hpc : ∀ m u, (f m u).pc = u.pc) (hf : ∀ m u, Effect u (f m u) regs flags [])
    (hp : post (f (s.fetched8 i o) ((s.advance i).operand8 o).2)) :
    CompletesVia i s ((s.advance i).operand8 o).2 regs (auto8 o) flags [] post := by
  refine ⟨_, hx, ?_, ?_, fun r hr => (hf _ _).registers r hr, hp⟩
  · simp [State.with8, hpc, State.pcNext]
  · refine (s.effect_advance i _ _).after (by simp) ?_
    exact (((s.advance i).effect_operand8 o).mono (by simp) (by simp)).after (by simp)
      ((hf _ _).mono (by simp +contextual) (by simp))

/-- The same with a 16-bit operand. -/
theorem with16_completes {i : Instr} {o : Operand16} {s : State} {f : Word → State → State} {regs : List RegName}
    {flags : List Flag} {post : State → Prop} (hx : exec i s = .next ((s.advance i).with16 o f))
    (hpc : ∀ m u, (f m u).pc = u.pc) (hf : ∀ m u, Effect u (f m u) regs flags [])
    (hp : post (f (s.fetched16 i o) ((s.advance i).operand16 o).2)) :
    CompletesVia i s ((s.advance i).operand16 o).2 regs (auto16 o) flags [] post := by
  refine ⟨_, hx, ?_, ?_, fun r hr => (hf _ _).registers r hr, hp⟩
  · simp [State.with16, hpc, State.pcNext]
  · refine (s.effect_advance i _ _).after (by simp) ?_
    exact (((s.advance i).effect_operand16 o).mono (by simp) (by simp)).after (by simp)
      ((hf _ _).mono (by simp +contextual) (by simp))

/-- A byte store completes and stores the byte alone. -/
theorem State.effect_store8 (s : State) (m : MemOperand) (value : State → Byte) :
    Effect s (s.store8 m value) (memAuto m) [.n, .z, .v] [((s.eaMem m).1, value (s.eaMem m).2)] := by
  refine ((s.effect_eaMem m).mono (fun _ h => h) (by simp)).after (by simp) ?_
  refine (State.effect_write8 _ _ _ _ _).andThen (State.effect_setCcr _ _ _ _ fun f => ?_)
  cases f <;> simp

/-- A word store completes and stores the two bytes alone. -/
theorem State.effect_store16 (s : State) (m : MemOperand) (value : State → Word) :
    Effect s (s.store16 m value) (memAuto m) [.n, .z, .v] (wordStores (s.eaMem m).1 (value (s.eaMem m).2)) := by
  refine ((s.effect_eaMem m).mono (fun _ h => h) (by simp)).after (by simp) ?_
  refine (State.effect_write16 _ _ _ _ _).andThen (State.effect_setCcr _ _ _ _ fun f => ?_)
  cases f <;> simp

/-- A byte store leaves the registers as forming the address left them. -/
@[simp] theorem State.store8_reg (s : State) (m : MemOperand) (value : State → Byte) (r : RegName) :
    (s.store8 m value).reg r = (s.eaMem m).2.reg r := by cases r <;> simp [State.store8, State.reg]

/-- A word store leaves the registers as forming the address left them. -/
@[simp] theorem State.store16_reg (s : State) (m : MemOperand) (value : State → Word) (r : RegName) :
    (s.store16 m value).reg r = (s.eaMem m).2.reg r := by cases r <;> simp [State.store16, State.reg]

/-- A read-modify-write of one byte keeps the registers. -/
@[simp] theorem State.modifyAt_reg (s : State) (ea : Word) (op : Byte → Byte → Byte × Byte) (r : RegName) :
    (s.modifyAt ea op).reg r = s.reg r := by cases r <;> simp [State.modifyAt, State.reg]

/-- A branch keeps the registers. -/
@[simp] theorem State.branch_reg (s : State) (taken : Bool) (off : Word) (r : RegName) :
    (s.branch taken off).reg r = s.reg r := by unfold State.branch; split <;> cases r <;> rfl

/-- A read-modify-write of one byte stores that byte alone. -/
theorem State.effect_modifyAt (s : State) (ea : Word) (op : Byte → Byte → Byte × Byte) (regs : List RegName)
    (flags : List Flag) (h : ∀ c m f, f ∉ flags → getFlag (op c m).2 f = getFlag c f) :
    Effect s (s.modifyAt ea op) regs flags [(ea, (op s.ccr (s.read8 ea).1).1)] := by
  refine (s.effect_read8 ea _ _).after (by simp) ?_
  have := ((s.read8 ea).2.effect_write8 ea (op s.ccr (s.read8 ea).1).1 regs flags).andThen
    (State.effect_setCcr _ (op s.ccr (s.read8 ea).1).2 regs flags fun f hf => by simpa using h _ _ f hf)
  simpa [State.modifyAt] using this

/-- A read-modify-write instruction stores the byte at its effective address alone. -/
theorem State.effect_rmw (s : State) (m : RmwOperand) (op : Byte → Byte → Byte × Byte) (flags : List Flag)
    (h : ∀ c m f, f ∉ flags → getFlag (op c m).2 f = getFlag c f) :
    Effect s (s.rmw m op) (rmwAuto m) flags
      [((s.eaRmw m).1, (op s.ccr ((s.eaRmw m).2.read8 (s.eaRmw m).1).1).1)] := by
  refine ((s.effect_eaRmw m).mono (fun _ h => h) (by simp)).after (by simp) ?_
  simpa [State.rmw] using State.effect_modifyAt (s.eaRmw m).2 (s.eaRmw m).1 op (rmwAuto m) flags h

end Sys2Proof.Machine
end

