-- ==== Sys2Proof/Laws/Encoding.lean ====
section
/-!
SUPPORT. What each reader of the decoder answers on the bytes its writer in the encoder gives.
-/

namespace Sys2Proof

@[simp] theorem takeByte_cons (b : Byte) (bs : List Byte) (k : Byte → List Byte → Decoded) :
    takeByte (b :: bs) k = k b bs := rfl

@[simp] theorem takeByte_nil (k : Byte → List Byte → Decoded) : takeByte [] k = .bad .truncated := rfl

/-- The two halves of a word put together. -/
@[simp] theorem word_halves (w : Word) : (w.extractLsb' 8 8 ++ w.extractLsb' 0 8 : Word) = w := by
  apply BitVec.eq_of_getLsbD_eq
  intro i hi
  simp only [BitVec.getLsbD_append, BitVec.getLsbD_extractLsb']
  by_cases h : i < 8
  · simp [h]
  · simp [h, show i - 8 < 8 by omega, show 8 + (i - 8) = i by omega]

/-- The parts of a 9-bit offset put together. -/
@[simp] theorem nine_parts (n : BitVec 9) : (n.extractLsb' 8 1 ++ n.extractLsb' 0 8 : BitVec 9) = n := by
  apply BitVec.eq_of_getLsbD_eq
  intro i hi
  simp only [BitVec.getLsbD_append, BitVec.getLsbD_extractLsb']
  by_cases h : i < 8
  · simp [h]
  · simp [h, show i - 8 < 1 by omega, show 8 + (i - 8) = i by omega]

/-- A word is read back from its bytes. -/
@[simp] theorem takeWord_bytes (w : Word) (rest : List Byte) (k : Word → List Byte → Decoded) :
    takeWord (wordBytes w ++ rest) k = k w rest := by
  simp [takeWord, wordBytes]

/-- The postbyte of a form without extension says that form (30_encoding.md R120). -/
@[simp] theorem xbForm_short (f : IdxShort) : xbForm (idxShortByte f) = .short f := by
  cases f with
  | const5 r n => revert n; cases r <;> decide
  | pre r n => revert n; cases r <;> decide
  | post r n => revert n; cases r <;> decide
  | acc r o => cases r <;> cases o <;> decide

/-- A form without extension is read back from its postbyte. -/
@[simp] theorem takeIdxShort_bytes (f : IdxShort) (rest : List Byte) (k : IdxShort → List Byte → Decoded) :
    takeIdxShort (idxShortByte f :: rest) k = k f rest := by
  simp [takeIdxShort]

/-- The postbyte of the 9-bit form (30_encoding.md R124). -/
theorem xbForm_nine (r : IdxBase) : ∀ s : BitVec 1, xbForm (7#3 ++ idxBaseCode r ++ 0#2 ++ s) = .nine r s := by
  cases r <;> decide

/-- The postbyte of the 16-bit form (30_encoding.md R125). -/
theorem xbForm_sixteen (r : IdxBase) : xbForm (7#3 ++ idxBaseCode r ++ 2#3) = .sixteen r := by cases r <;> decide

/-- The postbyte of the 16-bit indirect form (30_encoding.md R126). -/
theorem xbForm_ind16 (r : IdxBase) : xbForm (7#3 ++ idxBaseCode r ++ 3#3) = .ind16 r := by cases r <;> decide

/-- The postbyte of the form indirect through D (30_encoding.md R127). -/
theorem xbForm_indD (r : IdxBase) : xbForm (7#3 ++ idxBaseCode r ++ 7#3) = .indD r := by cases r <;> decide

/-- An indexed operand of any class is read back from its bytes. -/
@[simp] theorem takeIdx_bytes (f : IdxFull) (rest : List Byte) (k : IdxFull → List Byte → Decoded) :
    takeIdx (idxFullBytes f ++ rest) k = k f rest := by
  rcases f with (f | ⟨r, n⟩ | ⟨r, n⟩) | r | ⟨r, n⟩
  · simp [idxFullBytes, idxDirectBytes, takeIdx]
  · simp only [idxFullBytes, idxDirectBytes, takeIdx, List.cons_append, List.nil_append, takeByte_cons, xbForm_nine,
      nine_parts]
  · simp only [idxFullBytes, idxDirectBytes, takeIdx, List.cons_append, takeByte_cons, xbForm_sixteen, takeWord_bytes]
  · simp only [idxFullBytes, takeIdx, List.cons_append, List.nil_append, takeByte_cons, xbForm_indD]
  · simp only [idxFullBytes, takeIdx, List.cons_append, takeByte_cons, xbForm_ind16, takeWord_bytes]

/-- An indexed operand of the class without indirection is read back from its bytes. -/
@[simp] theorem takeIdxDirect_bytes (f : IdxDirect) (rest : List Byte) (k : IdxDirect → List Byte → Decoded) :
    takeIdxDirect (idxDirectBytes f ++ rest) k = k f rest := by
  unfold takeIdxDirect
  exact takeIdx_bytes (.direct f) rest _

/-- A register code says its register (30_encoding.md R140). -/
@[simp] theorem regOf_code (r : Reg) : regOf (regCode r) = some r := by
  rcases r with r | r <;> cases r <;> decide

/-- A transfer postbyte says its operands (30_encoding.md R140). -/
theorem transferOf_byte (x : BitVec 1) (r1 r2 : Reg) :
    transferOf (x ++ regCode r1 ++ 0#1 ++ regCode r2) = some (if x = 1 then .exg r1 r2 else .tfr r1 r2) := by
  revert x
  rcases r1 with r1 | r1 <;> cases r1 <;> rcases r2 with r2 | r2 <;> cases r2 <;> decide

/-- A loop postbyte says its operation and counter (30_encoding.md R145). -/
theorem loopOf_bytes (op : BitVec 3) (make : LoopReg → BitVec 9 → Instr) (h : loopOpOf op = some make) (r : LoopReg)
    (off : BitVec 9) :
    loopOf (op ++ off.extractLsb' 8 1 ++ 0#1 ++ loopRegCode r) (off.extractLsb' 0 8) = some (make r off) := by
  have key : ∀ (op : BitVec 3) (s : BitVec 1),
      (op ++ s ++ 0#1 ++ loopRegCode r : Byte).getLsbD 3 = false ∧
      (op ++ s ++ 0#1 ++ loopRegCode r : Byte).extractLsb' 5 3 = op ∧
      (op ++ s ++ 0#1 ++ loopRegCode r : Byte).extractLsb' 4 1 = s ∧
      loopRegOf ((op ++ s ++ 0#1 ++ loopRegCode r : Byte).extractLsb' 0 3) = some r := by
    cases r <;> decide
  obtain ⟨h3, h5, h4, h0⟩ := key op (off.extractLsb' 8 1)
  unfold loopOf
  rw [h3, h5, h0, h4, h]
  simp

end Sys2Proof
end

