-- ==== Sys2Proof/Laws/PerInstr.lean ====
section
/-!
SUPPORT. Statements for all instructions, made per instruction. `EncodeLength`: every instruction has between one and six
bytes (spec/30_encoding.md R110), whatever its operands.
-/

namespace Sys2Proof.Laws.EncodeLength

open Sys2Proof

set_option Elab.async false

/-- An instruction has between one and six bytes. -/
def Statement (i : Instr) : Prop := 1 ≤ i.length ∧ i.length ≤ 6

/-- A form without indirection has one to three bytes after the opcode. -/
theorem direct (f : IdxDirect) : 1 ≤ (idxDirectBytes f).length ∧ (idxDirectBytes f).length ≤ 3 := by
  cases f <;> simp [idxDirectBytes, wordBytes]

/-- An indexed form has one to three bytes after the opcode. -/
theorem full (f : IdxFull) : 1 ≤ (idxFullBytes f).length ∧ (idxFullBytes f).length ≤ 3 := by
  cases f with
  | direct f => exact direct f
  | indD r => simp [idxFullBytes]
  | ind16 r n => simp [idxFullBytes, wordBytes]

/-- A memory operand has two to four bytes with its opcode. -/
theorem memOperand (d x e : Byte) (m : MemOperand) :
    1 ≤ (memOperandBytes d x e m).length ∧ (memOperandBytes d x e m).length ≤ 4 := by
  cases m with
  | dir a => simp [memOperandBytes]
  | ext a => simp [memOperandBytes, wordBytes]
  | idx f => have := full f; simp [memOperandBytes]; omega

/-- The same for a read-modify-write operand. -/
theorem rmw (x e : Byte) (m : RmwOperand) :
    1 ≤ (rmwOperandBytes x e m).length ∧ (rmwOperandBytes x e m).length ≤ 4 := by
  cases m with
  | ext a => simp [rmwOperandBytes, wordBytes]
  | idx f => have := full f; simp [rmwOperandBytes]; omega

/-- The same for a bit operand. -/
theorem bit (d x e : Byte) (m : BitOperand) :
    1 ≤ (bitOperandBytes d x e m).length ∧ (bitOperandBytes d x e m).length ≤ 4 := by
  cases m with
  | dir a => simp [bitOperandBytes]
  | ext a => simp [bitOperandBytes, wordBytes]
  | idx f => have := direct f; simp [bitOperandBytes]; omega

/-- The same for an 8-bit operand. -/
theorem op8 (i d x e : Byte) (o : Operand8) :
    1 ≤ (operand8Bytes i d x e o).length ∧ (operand8Bytes i d x e o).length ≤ 4 := by
  rcases o with v | a | a | f
  · simp [operand8Bytes]
  · simp [operand8Bytes]
  · simp [operand8Bytes, wordBytes]
  · have := full f; simp [operand8Bytes]; omega

/-- The same for a 16-bit operand. -/
theorem op16 (i d x e : Byte) (o : Operand16) :
    1 ≤ (operand16Bytes i d x e o).length ∧ (operand16Bytes i d x e o).length ≤ 4 := by
  rcases o with v | a | a | f
  · simp [operand16Bytes, wordBytes]
  · simp [operand16Bytes]
  · simp [operand16Bytes, wordBytes]
  · have := full f; simp [operand16Bytes]; omega

/-- MOVB has at most six bytes. -/
theorem moveByte (s : MoveSource8) (d : MoveDest) : 1 ≤ (movbBytes s d).length ∧ (movbBytes s d).length ≤ 6 := by
  cases s <;> cases d <;> simp [movbBytes, wordBytes]

/-- MOVW has at most six bytes. -/
theorem moveWord (s : MoveSource16) (d : MoveDest) : 1 ≤ (movwBytes s d).length ∧ (movwBytes s d).length ≤ 6 := by
  cases s <;> cases d <;> simp [movwBytes, wordBytes]

/-- CALL has at most five bytes. -/
theorem callBytes_length (t : CallTarget) : 1 ≤ (callBytes t).length ∧ (callBytes t).length ≤ 6 := by
  cases t with
  | ext a pg => simp [callBytes, wordBytes]
  | idx f pg => have := direct f; simp [callBytes]; omega
  | indD r => simp [callBytes, idxFullBytes]
  | ind16 r n => simp [callBytes, idxFullBytes, wordBytes]

/-- An instruction of a fixed number of bytes. -/
theorem fixed {i : Instr} (n : Nat) (h : (encode i).length = n) (h1 : 1 ≤ n := by decide) (h6 : n ≤ 6 := by decide) :
    Statement i := by
  subst h; exact ⟨h1, h6⟩

/-- An instruction whose bytes are those of an operand with its opcode, and `n` more. -/
theorem after {i : Instr} (n : Nat) (l : List Byte) (h : (encode i).length = l.length + n)
    (hl : 1 ≤ l.length ∧ l.length ≤ 4) (hn : n ≤ 2 := by decide) : Statement i := by
  unfold Statement Instr.length; omega

/-- A form without indirection, as an operand. -/
theorem direct4 (f : IdxDirect) : 1 ≤ (idxDirectBytes f).length ∧ (idxDirectBytes f).length ≤ 4 := by
  have := direct f; omega

/-- An indexed form, as an operand. -/
theorem full4 (f : IdxFull) : 1 ≤ (idxFullBytes f).length ∧ (idxFullBytes f).length ≤ 4 := by
  have := full f; omega

theorem bgnd : Statement .bgnd := fixed 1 rfl

theorem mem : Statement .mem := fixed 1 rfl

theorem iny : Statement .iny := fixed 1 rfl

theorem dey : Statement .dey := fixed 1 rfl

theorem jmp (m : RmwOperand) : Statement (.jmp m) := after 0 _ rfl (rmw _ _ m)

theorem bsr (rel : Byte) : Statement (.bsr rel) := fixed 2 rfl

theorem inx : Statement .inx := fixed 1 rfl

theorem dex : Statement .dex := fixed 1 rfl

theorem rtc : Statement .rtc := fixed 1 rfl

theorem rti : Statement .rti := fixed 1 rfl

theorem bset (m : BitOperand) (mask : Byte) : Statement (.bset m mask) := after 1 _ List.length_append (bit _ _ _ m)

theorem bclr (m : BitOperand) (mask : Byte) : Statement (.bclr m mask) := after 1 _ List.length_append (bit _ _ _ m)

theorem brset (m : BitOperand) (mask : Byte) (rel : Byte) : Statement (.brset m mask rel) := after 2 _ List.length_append (bit _ _ _ m)

theorem brclr (m : BitOperand) (mask : Byte) (rel : Byte) : Statement (.brclr m mask rel) := after 2 _ List.length_append (bit _ _ _ m)

theorem andcc (imm : Byte) : Statement (.andcc imm) := fixed 2 rfl

theorem ediv : Statement .ediv := fixed 1 rfl

theorem mul : Statement .mul := fixed 1 rfl

theorem emul : Statement .emul := fixed 1 rfl

theorem orcc (imm : Byte) : Statement (.orcc imm) := fixed 2 rfl

theorem jsr (m : MemOperand) : Statement (.jsr m) := after 0 _ rfl (memOperand _ _ _ m)

theorem leay (f : IdxDirect) : Statement (.leay f) := after 1 _ rfl (direct4 f)

theorem leax (f : IdxDirect) : Statement (.leax f) := after 1 _ rfl (direct4 f)

theorem leas (f : IdxDirect) : Statement (.leas f) := after 1 _ rfl (direct4 f)

theorem bra (rel : Byte) : Statement (.bra rel) := fixed 2 rfl

theorem brn (rel : Byte) : Statement (.brn rel) := fixed 2 rfl

theorem bhi (rel : Byte) : Statement (.bhi rel) := fixed 2 rfl

theorem bls (rel : Byte) : Statement (.bls rel) := fixed 2 rfl

theorem bcc (rel : Byte) : Statement (.bcc rel) := fixed 2 rfl

theorem bhs (rel : Byte) : Statement (.bhs rel) := fixed 2 rfl

theorem bcs (rel : Byte) : Statement (.bcs rel) := fixed 2 rfl

theorem blo (rel : Byte) : Statement (.blo rel) := fixed 2 rfl

theorem bne (rel : Byte) : Statement (.bne rel) := fixed 2 rfl

theorem beq (rel : Byte) : Statement (.beq rel) := fixed 2 rfl

theorem bvc (rel : Byte) : Statement (.bvc rel) := fixed 2 rfl

theorem bvs (rel : Byte) : Statement (.bvs rel) := fixed 2 rfl

theorem bpl (rel : Byte) : Statement (.bpl rel) := fixed 2 rfl

theorem bmi (rel : Byte) : Statement (.bmi rel) := fixed 2 rfl

theorem bge (rel : Byte) : Statement (.bge rel) := fixed 2 rfl

theorem blt (rel : Byte) : Statement (.blt rel) := fixed 2 rfl

theorem bgt (rel : Byte) : Statement (.bgt rel) := fixed 2 rfl

theorem ble (rel : Byte) : Statement (.ble rel) := fixed 2 rfl

theorem pulx : Statement .pulx := fixed 1 rfl

theorem puly : Statement .puly := fixed 1 rfl

theorem pula : Statement .pula := fixed 1 rfl

theorem pulb : Statement .pulb := fixed 1 rfl

theorem pshx : Statement .pshx := fixed 1 rfl

theorem pshy : Statement .pshy := fixed 1 rfl

theorem psha : Statement .psha := fixed 1 rfl

theorem pshb : Statement .pshb := fixed 1 rfl

theorem pulc : Statement .pulc := fixed 1 rfl

theorem pshc : Statement .pshc := fixed 1 rfl

theorem puld : Statement .puld := fixed 1 rfl

theorem pshd : Statement .pshd := fixed 1 rfl

theorem wavr : Statement .wavr := fixed 1 rfl

theorem rts : Statement .rts := fixed 1 rfl

theorem wai : Statement .wai := fixed 1 rfl

theorem swi : Statement .swi := fixed 1 rfl

theorem nega : Statement .nega := fixed 1 rfl

theorem coma : Statement .coma := fixed 1 rfl

theorem inca : Statement .inca := fixed 1 rfl

theorem deca : Statement .deca := fixed 1 rfl

theorem lsra : Statement .lsra := fixed 1 rfl

theorem rola : Statement .rola := fixed 1 rfl

theorem rora : Statement .rora := fixed 1 rfl

theorem asra : Statement .asra := fixed 1 rfl

theorem lsla : Statement .lsla := fixed 1 rfl

theorem asla : Statement .asla := fixed 1 rfl

theorem lsrd : Statement .lsrd := fixed 1 rfl

theorem call (t : CallTarget) : Statement (.call t) := callBytes_length t

theorem negb : Statement .negb := fixed 1 rfl

theorem comb : Statement .comb := fixed 1 rfl

theorem incb : Statement .incb := fixed 1 rfl

theorem decb : Statement .decb := fixed 1 rfl

theorem lsrb : Statement .lsrb := fixed 1 rfl

theorem rolb : Statement .rolb := fixed 1 rfl

theorem rorb : Statement .rorb := fixed 1 rfl

theorem asrb : Statement .asrb := fixed 1 rfl

theorem lslb : Statement .lslb := fixed 1 rfl

theorem aslb : Statement .aslb := fixed 1 rfl

theorem lsld : Statement .lsld := fixed 1 rfl

theorem asld : Statement .asld := fixed 1 rfl

theorem staa (m : MemOperand) : Statement (.staa m) := after 0 _ rfl (memOperand _ _ _ m)

theorem stab (m : MemOperand) : Statement (.stab m) := after 0 _ rfl (memOperand _ _ _ m)

theorem std (m : MemOperand) : Statement (.std m) := after 0 _ rfl (memOperand _ _ _ m)

theorem sty (m : MemOperand) : Statement (.sty m) := after 0 _ rfl (memOperand _ _ _ m)

theorem stx (m : MemOperand) : Statement (.stx m) := after 0 _ rfl (memOperand _ _ _ m)

theorem sts (m : MemOperand) : Statement (.sts m) := after 0 _ rfl (memOperand _ _ _ m)

theorem neg (m : RmwOperand) : Statement (.neg m) := after 0 _ rfl (rmw _ _ m)

theorem com (m : RmwOperand) : Statement (.com m) := after 0 _ rfl (rmw _ _ m)

theorem inc (m : RmwOperand) : Statement (.inc m) := after 0 _ rfl (rmw _ _ m)

theorem dec (m : RmwOperand) : Statement (.dec m) := after 0 _ rfl (rmw _ _ m)

theorem lsr (m : RmwOperand) : Statement (.lsr m) := after 0 _ rfl (rmw _ _ m)

theorem rol (m : RmwOperand) : Statement (.rol m) := after 0 _ rfl (rmw _ _ m)

theorem ror (m : RmwOperand) : Statement (.ror m) := after 0 _ rfl (rmw _ _ m)

theorem asr (m : RmwOperand) : Statement (.asr m) := after 0 _ rfl (rmw _ _ m)

theorem lsl (m : RmwOperand) : Statement (.lsl m) := after 0 _ rfl (rmw _ _ m)

theorem asl (m : RmwOperand) : Statement (.asl m) := after 0 _ rfl (rmw _ _ m)

theorem clr (m : RmwOperand) : Statement (.clr m) := after 0 _ rfl (rmw _ _ m)

theorem suba (o : Operand8) : Statement (.suba o) := after 0 _ rfl (op8 _ _ _ _ o)

theorem cmpa (o : Operand8) : Statement (.cmpa o) := after 0 _ rfl (op8 _ _ _ _ o)

theorem sbca (o : Operand8) : Statement (.sbca o) := after 0 _ rfl (op8 _ _ _ _ o)

theorem subd (o : Operand16) : Statement (.subd o) := after 0 _ rfl (op16 _ _ _ _ o)

theorem anda (o : Operand8) : Statement (.anda o) := after 0 _ rfl (op8 _ _ _ _ o)

theorem bita (o : Operand8) : Statement (.bita o) := after 0 _ rfl (op8 _ _ _ _ o)

theorem ldaa (o : Operand8) : Statement (.ldaa o) := after 0 _ rfl (op8 _ _ _ _ o)

theorem clra : Statement .clra := fixed 1 rfl

theorem eora (o : Operand8) : Statement (.eora o) := after 0 _ rfl (op8 _ _ _ _ o)

theorem adca (o : Operand8) : Statement (.adca o) := after 0 _ rfl (op8 _ _ _ _ o)

theorem oraa (o : Operand8) : Statement (.oraa o) := after 0 _ rfl (op8 _ _ _ _ o)

theorem adda (o : Operand8) : Statement (.adda o) := after 0 _ rfl (op8 _ _ _ _ o)

theorem cpd (o : Operand16) : Statement (.cpd o) := after 0 _ rfl (op16 _ _ _ _ o)

theorem cpy (o : Operand16) : Statement (.cpy o) := after 0 _ rfl (op16 _ _ _ _ o)

theorem cpx (o : Operand16) : Statement (.cpx o) := after 0 _ rfl (op16 _ _ _ _ o)

theorem cps (o : Operand16) : Statement (.cps o) := after 0 _ rfl (op16 _ _ _ _ o)

theorem tsta : Statement .tsta := fixed 1 rfl

theorem nop : Statement .nop := fixed 1 rfl

theorem subb (o : Operand8) : Statement (.subb o) := after 0 _ rfl (op8 _ _ _ _ o)

theorem cmpb (o : Operand8) : Statement (.cmpb o) := after 0 _ rfl (op8 _ _ _ _ o)

theorem sbcb (o : Operand8) : Statement (.sbcb o) := after 0 _ rfl (op8 _ _ _ _ o)

theorem addd (o : Operand16) : Statement (.addd o) := after 0 _ rfl (op16 _ _ _ _ o)

theorem andb (o : Operand8) : Statement (.andb o) := after 0 _ rfl (op8 _ _ _ _ o)

theorem bitb (o : Operand8) : Statement (.bitb o) := after 0 _ rfl (op8 _ _ _ _ o)

theorem ldab (o : Operand8) : Statement (.ldab o) := after 0 _ rfl (op8 _ _ _ _ o)

theorem clrb : Statement .clrb := fixed 1 rfl

theorem eorb (o : Operand8) : Statement (.eorb o) := after 0 _ rfl (op8 _ _ _ _ o)

theorem adcb (o : Operand8) : Statement (.adcb o) := after 0 _ rfl (op8 _ _ _ _ o)

theorem orab (o : Operand8) : Statement (.orab o) := after 0 _ rfl (op8 _ _ _ _ o)

theorem addb (o : Operand8) : Statement (.addb o) := after 0 _ rfl (op8 _ _ _ _ o)

theorem ldd (o : Operand16) : Statement (.ldd o) := after 0 _ rfl (op16 _ _ _ _ o)

theorem ldy (o : Operand16) : Statement (.ldy o) := after 0 _ rfl (op16 _ _ _ _ o)

theorem ldx (o : Operand16) : Statement (.ldx o) := after 0 _ rfl (op16 _ _ _ _ o)

theorem lds (o : Operand16) : Statement (.lds o) := after 0 _ rfl (op16 _ _ _ _ o)

theorem tstb : Statement .tstb := fixed 1 rfl

theorem tst (m : RmwOperand) : Statement (.tst m) := after 0 _ rfl (rmw _ _ m)

theorem dbeq (r : LoopReg) (off : BitVec 9) : Statement (.dbeq r off) := fixed 3 rfl

theorem dbne (r : LoopReg) (off : BitVec 9) : Statement (.dbne r off) := fixed 3 rfl

theorem tbeq (r : LoopReg) (off : BitVec 9) : Statement (.tbeq r off) := fixed 3 rfl

theorem tbne (r : LoopReg) (off : BitVec 9) : Statement (.tbne r off) := fixed 3 rfl

theorem ibeq (r : LoopReg) (off : BitVec 9) : Statement (.ibeq r off) := fixed 3 rfl

theorem ibne (r : LoopReg) (off : BitVec 9) : Statement (.ibne r off) := fixed 3 rfl

theorem tfr (r1 : Reg) (r2 : Reg) : Statement (.tfr r1 r2) := fixed 2 rfl

theorem exg (r1 : Reg) (r2 : Reg) : Statement (.exg r1 r2) := fixed 2 rfl

theorem sex (r1 : Reg8) (r2 : Reg16) : Statement (.sex r1 r2) := fixed 2 rfl

theorem tap : Statement .tap := fixed 2 rfl

theorem tpa : Statement .tpa := fixed 2 rfl

theorem tsx : Statement .tsx := fixed 2 rfl

theorem tsy : Statement .tsy := fixed 2 rfl

theorem txs : Statement .txs := fixed 2 rfl

theorem tys : Statement .tys := fixed 2 rfl

theorem xgdx : Statement .xgdx := fixed 2 rfl

theorem xgdy : Statement .xgdy := fixed 2 rfl

theorem abx : Statement .abx := fixed 2 rfl

theorem aby : Statement .aby := fixed 2 rfl

theorem des : Statement .des := fixed 2 rfl

theorem ins : Statement .ins := fixed 2 rfl

theorem clc : Statement .clc := fixed 2 rfl

theorem cli : Statement .cli := fixed 2 rfl

theorem clv : Statement .clv := fixed 2 rfl

theorem sec : Statement .sec := fixed 2 rfl

theorem sei : Statement .sei := fixed 2 rfl

theorem sev : Statement .sev := fixed 2 rfl

theorem movw (src : MoveSource16) (dst : MoveDest) : Statement (.movw src dst) := moveWord src dst

theorem movb (src : MoveSource8) (dst : MoveDest) : Statement (.movb src dst) := moveByte src dst

theorem aba : Statement .aba := fixed 2 rfl

theorem daa : Statement .daa := fixed 2 rfl

theorem tab : Statement .tab := fixed 2 rfl

theorem tba : Statement .tba := fixed 2 rfl

theorem idiv : Statement .idiv := fixed 2 rfl

theorem fdiv : Statement .fdiv := fixed 2 rfl

theorem emuls : Statement .emuls := fixed 2 rfl

theorem edivs : Statement .edivs := fixed 2 rfl

theorem idivs : Statement .idivs := fixed 2 rfl

theorem sba : Statement .sba := fixed 2 rfl

theorem cba : Statement .cba := fixed 2 rfl

theorem rev : Statement .rev := fixed 2 rfl

theorem revw : Statement .revw := fixed 2 rfl

theorem wav : Statement .wav := fixed 2 rfl

theorem stop : Statement .stop := fixed 2 rfl

theorem emacs (addr : Word) : Statement (.emacs addr) := fixed 4 rfl

theorem maxa (f : IdxFull) : Statement (.maxa f) := after 2 _ rfl (full4 f)

theorem mina (f : IdxFull) : Statement (.mina f) := after 2 _ rfl (full4 f)

theorem emaxd (f : IdxFull) : Statement (.emaxd f) := after 2 _ rfl (full4 f)

theorem emind (f : IdxFull) : Statement (.emind f) := after 2 _ rfl (full4 f)

theorem maxm (f : IdxFull) : Statement (.maxm f) := after 2 _ rfl (full4 f)

theorem minm (f : IdxFull) : Statement (.minm f) := after 2 _ rfl (full4 f)

theorem emaxm (f : IdxFull) : Statement (.emaxm f) := after 2 _ rfl (full4 f)

theorem eminm (f : IdxFull) : Statement (.eminm f) := after 2 _ rfl (full4 f)

theorem tbl (f : IdxShort) : Statement (.tbl f) := fixed 3 rfl

theorem etbl (f : IdxShort) : Statement (.etbl f) := fixed 3 rfl

theorem lbra (rel : Word) : Statement (.lbra rel) := fixed 4 rfl

theorem lbrn (rel : Word) : Statement (.lbrn rel) := fixed 4 rfl

theorem lbhi (rel : Word) : Statement (.lbhi rel) := fixed 4 rfl

theorem lbls (rel : Word) : Statement (.lbls rel) := fixed 4 rfl

theorem lbcc (rel : Word) : Statement (.lbcc rel) := fixed 4 rfl

theorem lbhs (rel : Word) : Statement (.lbhs rel) := fixed 4 rfl

theorem lbcs (rel : Word) : Statement (.lbcs rel) := fixed 4 rfl

theorem lblo (rel : Word) : Statement (.lblo rel) := fixed 4 rfl

theorem lbne (rel : Word) : Statement (.lbne rel) := fixed 4 rfl

theorem lbeq (rel : Word) : Statement (.lbeq rel) := fixed 4 rfl

theorem lbvc (rel : Word) : Statement (.lbvc rel) := fixed 4 rfl

theorem lbvs (rel : Word) : Statement (.lbvs rel) := fixed 4 rfl

theorem lbpl (rel : Word) : Statement (.lbpl rel) := fixed 4 rfl

theorem lbmi (rel : Word) : Statement (.lbmi rel) := fixed 4 rfl

theorem lbge (rel : Word) : Statement (.lbge rel) := fixed 4 rfl

theorem lblt (rel : Word) : Statement (.lblt rel) := fixed 4 rfl

theorem lbgt (rel : Word) : Statement (.lbgt rel) := fixed 4 rfl

theorem lble (rel : Word) : Statement (.lble rel) := fixed 4 rfl

theorem trap (tn : Byte) : Statement (.trap tn) := fixed 2 rfl

end Sys2Proof.Laws.EncodeLength
end

