-- ==== Sys2Proof/Laws/Step.lean ====
section
/-!
SUPPORT. What a step can do: the sampling point, the work it leaves, and the reading ahead that ends it. A statement about
`step` cites these and unfolds neither `State.cycle` nor `State.eventOf`.
-/

namespace Sys2Proof.Machine

/-! ## Sampling -/

/-- Past the end of the list nothing is requested. -/
theorem State.sample_nil {s : State} (h : s.requests = []) : s.sample = (noRequests, s) := by
  unfold State.sample
  rw [h]

/-- A sampling point uses up the first entry. -/
theorem State.sample_cons {s : State} {r : Requests} {rest : List Requests} (h : s.requests = r :: rest) :
    s.sample = (r, { s with requests := rest }) := by
  unfold State.sample
  rw [h]

/-- The event depends on the masks, the run state and the parameters alone. -/
theorem State.eventOf_congr {s t : State} (r : Requests) (hc : t.ccr = s.ccr) (hr : t.runState = s.runState)
    (hp : t.cfg = s.cfg) : t.eventOf r = s.eventOf r := by
  simp [State.eventOf, State.maskableEvent, hc, hr, hp]

/-- The event that the first entry leads to. -/
theorem State.eventOf_sample {s : State} {r : Requests} {rest : List Requests} (h : s.requests = r :: rest) :
    s.sample.2.eventOf s.sample.1 = s.eventOf r := by
  rw [State.sample_cons h]
  exact State.eventOf_congr r rfl rfl rfl

/-- With nothing requested nothing is taken. -/
@[simp] theorem State.eventOf_noRequests (s : State) : s.eventOf noRequests = none := by
  have : ∀ (l : List Word) k, firstSource (fun _ => false) l k = none := by
    intro l
    induction l with
    | nil => exact fun _ => rfl
    | cons v rest ih => intro k; simpa [firstSource] using ih (k + 1)
  simp [State.eventOf, State.maskableEvent, noRequests, this]

/-! ## Reading ahead -/

/-- Reading ahead after an outcome without a next state. -/
@[simp] theorem settle_next (t : State) : settle (.next t) = .next t.readAhead := rfl
@[simp] theorem settle_refused (e : Refusal) : settle (.refused e) = .refused e := rfl
@[simp] theorem settle_fault (f : Fault) : settle (.fault f) = .fault f := rfl

/-- A settled next state comes from a next state. -/
theorem settle_eq_next {r : Result} {t : State} : settle r = .next t ↔ ∃ u, r = .next u ∧ t = u.readAhead := by
  cases r <;> simp [settle, eq_comm]

/-- A program word has two bytes, at its address and the next. -/
theorem State.programWord_addresses (s : State) (a : Word) :
    (s.programWord a).1.map Prod.fst = [a.toNat, (a + 1).toNat] := by
  unfold State.programWord
  split <;> rfl

/-- After reading ahead the queue holds the three aligned words from PC on (20_memory.md R100). -/
theorem State.readAhead_addresses (s : State) :
    s.readAhead.queue.map Prod.fst = (List.range 6).map fun k => (s.queueBase + BitVec.ofNat 16 k).toNat := by
  simp only [State.readAhead, State.programWords, List.map_append, State.programWord_addresses]
  simp [List.range_succ, BitVec.add_assoc, Nat.mod_eq_of_lt s.queueBase.isLt]

/-- Reading ahead shows nothing to the program. -/
theorem State.effect_readAhead (s : State) (regs : List RegName) (flags : List Flag) :
    Effect s s.readAhead regs flags [] := by
  rw [State.readAhead_frame]
  exact Effect.quiet (fun r _ => by cases r <;> rfl) (fun _ _ => rfl) rfl rfl rfl rfl rfl rfl

/-! ## The work of a step -/

/-- Unless a reset cuts it off, a step does the work its sampling point leaves. -/
theorem step_eq_perform {s : State} (h : s.sample.1.cutBy = none) :
    step s = (s.sample.2.work s.sample.1).2.perform (s.sample.2.work s.sample.1).1 := by
  unfold step State.cycle
  simp only
  rw [h]

/-- The work where an event is taken. -/
theorem State.work_event {s : State} {r : Requests} {e : Event} (h : s.eventOf r = some e) :
    s.work r = (.event e, s) := by
  unfold State.work
  rw [h]

/-- The work where none is. -/
theorem State.work_quiet {s : State} {r : Requests} (h : s.eventOf r = none) : s.work r = s.quietWork := by
  unfold State.work
  rw [h]

/-- A step that takes an event. -/
theorem step_event {s : State} {e : Event} (hc : s.sample.1.cutBy = none)
    (h : s.sample.2.eventOf s.sample.1 = some e) : step s = settle (.next (s.sample.2.takeEvent e)) := by
  rw [step_eq_perform hc, State.work_event h]
  rfl

/-- A step that takes none. -/
theorem step_quiet {s : State} (hc : s.sample.1.cutBy = none) (h : s.sample.2.eventOf s.sample.1 = none) :
    step s = s.sample.2.quietWork.2.perform s.sample.2.quietWork.1 := by
  rw [step_eq_perform hc, State.work_quiet h]

/-! ## Which event -/

/-- The first source in order of priority. -/
theorem firstSource_eq_some {seen : Nat → Bool} {l : List Word} {k j : Nat} {v : Word} (hj : l[j]? = some v)
    (hs : seen (k + j) = true) (hn : ∀ i < j, seen (k + i) = false) : firstSource seen l k = some v := by
  induction l generalizing k j with
  | nil => simp at hj
  | cons w rest ih =>
    cases j with
    | zero =>
      simp only [List.getElem?_cons_zero, Option.some.injEq] at hj
      simp only [Nat.add_zero] at hs
      simp [firstSource, hs, hj]
    | succ j =>
      have h0 : seen k = false := by simpa using hn 0 (Nat.succ_pos j)
      simp only [firstSource, h0, Bool.false_eq_true, if_false]
      refine ih (by simpa using hj) (by rw [Nat.add_assoc, Nat.add_comm 1 j]; exact hs) fun i hi => ?_
      have := hn (i + 1) (by omega)
      rwa [show k + (i + 1) = k + 1 + i by omega] at this

/-- No source with a vector is seen. -/
theorem firstSource_eq_none {seen : Nat → Bool} {l : List Word} {k : Nat}
    (h : ∀ j, seen (k + j) = true → l[j]? = none) : firstSource seen l k = none := by
  induction l generalizing k with
  | nil => rfl
  | cons w rest ih =>
    have h0 : seen k = false := by
      cases hk : seen k
      · rfl
      · have := h 0 (by simpa using hk)
        simp at this
    simp only [firstSource, h0, Bool.false_eq_true, if_false]
    refine ih fun j hj => ?_
    have := h (j + 1) (by rwa [show k + (j + 1) = k + 1 + j by omega])
    simpa using this

/-- What `State.sees` says, as the machine computes it. -/
theorem State.seen_eq (s : State) (r : Requests) (k : Nat) :
    (r.sources.contains k && (s.runState != .stopped || s.cfg.stopSources.contains k)) = true ↔ s.sees r k := by
  unfold State.sees
  cases h : s.runState <;> simp

/-- The interrupt that the masks allow is the event (60_exceptions.md R566, R580). -/
theorem State.eventOf_takes {s : State} {r : Requests} {v : Word} {setX : Bool} (hb : s.runState ≠ .background)
    (hr : r.noReset) (h : s.takes r v setX) : s.eventOf r = some (.interrupt v setX) := by
  obtain ⟨h1, h2, h3, -⟩ := hr
  unfold State.eventOf
  rw [if_neg (by simp [h1]), if_neg (by simp [h2]), if_neg (by simp [h3]), if_neg hb]
  obtain ⟨hx, hm, rfl, rfl⟩ | ⟨hx, hi, rfl, h⟩ := h
  · simp [hx, hm]
  · have hx' : (r.xirq && !getFlag s.ccr .xm) = false := by
      rcases hx with hx | hx <;> simp [hx]
    rw [hx']
    simp only [Bool.false_eq_true, if_false]
    have hm : s.maskableEvent r = some (.interrupt v false) := by
      unfold State.maskableEvent
      simp only [hi, Bool.false_eq_true, if_false]
      obtain ⟨hq, rfl⟩ | ⟨hq, k, hk, hv, hn⟩ := h
      · simp [hq]
      · simp only [hq, Bool.false_eq_true, if_false]
        rw [firstSource_eq_some (j := k) hv (by simpa using (s.seen_eq r k).mpr hk)]
        · rfl
        · intro i hi'
          rw [Nat.zero_add]
          exact Bool.eq_false_iff.mpr fun e => hn i hi' ((s.seen_eq r i).mp e)
    rw [hm]

/-- Where the masks hold off every request, nothing is taken but the resumption after STOP (60_exceptions.md R580). -/
theorem State.eventOf_takesNone {s : State} {r : Requests} (hb : s.runState ≠ .background) (hr : r.noReset)
    (h : s.takesNone r) :
    s.eventOf r = if r.xirq = true ∧ s.runState = .stopped then some .resume else none := by
  obtain ⟨h1, h2, h3, -⟩ := hr
  unfold State.eventOf
  rw [if_neg (by simp [h1]), if_neg (by simp [h2]), if_neg (by simp [h3]), if_neg hb]
  have hx' : (r.xirq && !getFlag s.ccr .xm) = false := by
    rcases h.1 with hx | hx <;> simp [hx]
  have hm : s.maskableEvent r = none := by
    unfold State.maskableEvent
    rcases h.2 with hi | ⟨hq, hk⟩
    · simp [hi]
    · simp only [hq, Bool.false_eq_true, if_false]
      rw [firstSource_eq_none fun j hj => hk j ((s.seen_eq r j).mp (by simpa using hj))]
      split <;> rfl
  rw [hx', hm]
  simp

/-! ## Resets -/

/-- What the reset sequence leaves, whatever values it draws (70_reset_and_hazards.md R611). -/
theorem State.resetSequence_leaves (s : State) (v : Word) :
    (getFlag (s.resetSequence v).ccr .s = true ∧ getFlag (s.resetSequence v).ccr .xm = true ∧
      getFlag (s.resetSequence v).ccr .i = true) ∧
    (s.resetSequence v).runState = .running ∧ (s.resetSequence v).mem = s.mem ∧
    (s.resetSequence v).progress = none ∧ (s.resetSequence v).ruleStores = [] ∧
    (s.resetSequence v).queue = [] ∧ (s.resetSequence v).stale = [] ∧
    (s.resetSequence v).requests = s.requests ∧ (s.resetSequence v).cfg = s.cfg := by
  unfold State.resetSequence
  refine ⟨?_, ?_⟩
  · refine ⟨?_, ?_, ?_⟩ <;>
      simp only [State.jump_ccr, State.read16_ccr] <;> rw [getFlag_drawFlags _ _ _ (by decide)] <;>
      (dsimp only; decide)
  · simp [State.drawByte]

/-- Where the reset sequence goes: to the word at the vector. -/
theorem State.resetSequence_pc {s : State} {v : Word} (hp : s.cfg.ppageAddr = none) (h : s.plain v = true)
    (h' : s.plain (v + 1) = true) : (s.resetSequence v).pc = s.peek16 v := by
  unfold State.resetSequence
  simp only [State.jump_pc]
  rw [State.read16_plain]
  · simp [State.peek16, State.peek, State.drawByte, hp]
  · simpa [State.plain, State.kindAt, State.drawByte] using h
  · simpa [State.plain, State.kindAt, State.drawByte] using h'

/-- Bytes that hold any value keep the canonical form and leave the other addresses alone. -/
theorem State.drawBytes_leaves (l : List Word) {s : State} (hm : Memory.wf s.mem = true) :
    Memory.wf (s.drawBytes l).mem = true ∧ ∀ x, x ∉ l → (s.drawBytes l).peek x = s.peek x := by
  induction l generalizing s with
  | nil => exact ⟨hm, fun _ _ => rfl⟩
  | cons a rest ih =>
    have hd : Memory.wf s.drawByte.2.mem = true := hm
    have h := ih (State.wf_write8 hd a s.drawByte.1)
    refine ⟨h.1, fun x hx => ?_⟩
    rw [List.mem_cons, not_or] at hx
    rw [State.drawBytes, h.2 x hx.2, State.peek_write8 hd]
    simp only [State.overlay, hx.1, false_and, if_false]
    rfl

/-- Each of the bytes that can be stored holds a free value. -/
theorem State.drawBytes_free (l : List Word) {s : State} (hm : Memory.wf s.mem = true) {x : Word} (hx : x ∈ l)
    (hw : s.writable x = true) : ∃ n, (s.drawBytes l).peek x = Config.freeByte n := by
  induction l generalizing s with
  | nil => simp at hx
  | cons a rest ih =>
    have hd : Memory.wf s.drawByte.2.mem = true := hm
    have hw' : s.drawByte.2.writable x = true := hw
    by_cases hr : x ∈ rest
    · exact ih (State.wf_write8 hd a s.drawByte.1) hr
        (by simpa [State.writable, State.kindAt] using hw)
    · obtain rfl : x = a := by simpa [hr] using hx
      refine ⟨s.draws, ?_⟩
      rw [State.drawBytes, (State.drawBytes_leaves rest (State.wf_write8 hd x s.drawByte.1)).2 x hr,
        State.peek_write8 hd]
      simp only [State.overlay, hw', and_self, if_true]
      rfl

/-- The reset sequence after bytes were left with any value: what every reset leaves (70_reset_and_hazards.md R611). -/
theorem State.resetFrom_drawn (s : State) (n : Nat) (l : List Word) (v : Word) :
    ResetFrom s (({ s with draws := n }.drawBytes l).resetSequence v) v l s.requests := by
  obtain ⟨hc, hr, hm, hp, hs, hq, ht, hl, hg⟩ := ({ s with draws := n }.drawBytes l).resetSequence_leaves v
  have hpeek : s.cfg.ppageAddr = none → ∀ x,
      (({ s with draws := n }.drawBytes l).resetSequence v).peek x = ({ s with draws := n }.drawBytes l).peek x := by
    intro h x
    simp [State.peek, hm, hg, h]
  refine ⟨hc, hr, ⟨hp, hs, ht⟩, by simp [hl], by simp [hg], fun h => by subst h; exact hm, fun h hw x hx => ?_,
    fun h hw x hx hwr => ?_, fun h h1 h2 => ?_⟩
  · rw [hpeek h]
    exact (State.drawBytes_leaves l (s := { s with draws := n }) hw).2 x hx
  · rw [hpeek h]
    exact State.drawBytes_free l (s := { s with draws := n }) hw hx hwr
  · rw [State.resetSequence_pc (by simpa using h) (by simpa [State.plain, State.kindAt] using h1)
      (by simpa [State.plain, State.kindAt] using h2)]
    simp only [State.peek16, hpeek h]

/-- A reset taken at a sampling point (70_reset_and_hazards.md R611). -/
theorem State.resetFrom_takeEvent (s : State) (v : Word) :
    ResetFrom s (s.takeEvent (.reset v)) v s.ruleStores s.requests := s.resetFrom_drawn s.draws s.ruleStores v

/-- A reset in the middle of the work that would have led to `t` (70_reset_and_hazards.md R611). -/
theorem State.resetFrom_cutOff (s : State) (c : ResetCause) (t : State) :
    ResetFrom s (s.cutOff c t) (s.resetVector c) (s.ruleStores ++ t.stored) s.requests :=
  s.resetFrom_drawn t.draws (s.ruleStores ++ t.stored) (s.resetVector c)

/-- Reading ahead takes nothing of that back. -/
theorem ResetFrom.readAhead {s t : State} {v : Word} {lost : List Word} {rest : List Requests}
    (h : ResetFrom s t v lost rest) : ResetFrom s t.readAhead v lost rest := by
  rw [State.readAhead_frame]
  exact ⟨h.masks, h.running, h.nothingBegun, h.requests, h.config, h.memory, h.kept, h.free, h.target⟩

end Sys2Proof.Machine
end

