-- ==== Sys2Proof/Tests/Slice0.lean ====
section
/-!
SUPPORT. Tests. Expected results come from the spec: the decode words from the formats of spec/30_encoding.md R112 with the
opcodes of spec/opcode_table.json, the steps from the vectors of spec/95_test_vectors.md, whose number each name carries,
and at the end a witness for each statement that has hypotheses.
-/

namespace Sys2Proof.Tests

open Sys2Proof Sys2Proof.Machine

set_option Elab.async false

/-! ## Well-formedness -/

theorem test_wf_refuses_page_two_opcode : (Instr.trap 0x2F).wf = false := by decide
theorem test_wf_refuses_gap : (Instr.trap 0x3A).wf = false ∧ (Instr.trap 0x3F).wf = false := by decide
theorem test_wf_accepts_trap : (Instr.trap 0x30).wf = true ∧ (Instr.trap 0x39).wf = true ∧ (Instr.trap 0x40).wf = true ∧
    (Instr.trap 0xFF).wf = true := by decide

/-! ## Decoding -/

theorem test_decode_00 :
    decode [0x00] = .ok .bgnd [] ∧
    decode [0x01] = .ok .mem [] ∧
    decode [0x02] = .ok .iny [] ∧
    decode [0x03] = .ok .dey [] ∧
    decode [0x05, 0x90] = .ok (.jmp (.idx (.direct (.short (.const5 .sp (-16)))))) [] ∧
    decode [0x06, 0x56, 0x78] = .ok (.jmp (.ext 0x5678)) [] ∧
    decode [0x07, 0x91] = .ok (.bsr 0x91) [] ∧
    decode [0x08] = .ok .inx [] ∧
    decode [0x09] = .ok .dex [] ∧
    decode [0x0A] = .ok .rtc [] ∧
    decode [0x0B] = .ok .rti [] ∧
    decode [0x0C, 0x29, 0x81] = .ok (.bset (.idx (.short (.pre .x 9))) 0x81) [] ∧
    decode [0x0D, 0x75, 0x81] = .ok (.bclr (.idx (.short (.post .y 5))) 0x81) [] ∧
    decode [0x0E, 0xF1, 0x80, 0x81, 0xF0] = .ok (.brset (.idx (.const9 .sp 0x180)) 0x81 0xF0) [] ∧
    decode [0x0F, 0xFA, 0x12, 0x34, 0x81, 0xF0] = .ok (.brclr (.idx (.const16 .pc 0x1234)) 0x81 0xF0) [] ∧
    decode [0x10, 0x91] = .ok (.andcc 0x91) [] := by
  decide +kernel

theorem test_decode_01 :
    decode [0x11] = .ok .ediv [] ∧
    decode [0x12] = .ok .mul [] ∧
    decode [0x13] = .ok .emul [] ∧
    decode [0x14, 0x91] = .ok (.orcc 0x91) [] ∧
    decode [0x15, 0xE6] = .ok (.jsr (.idx (.direct (.short (.acc .x .d))))) [] ∧
    decode [0x16, 0x56, 0x78] = .ok (.jsr (.ext 0x5678)) [] ∧
    decode [0x17, 0x83] = .ok (.jsr (.dir 0x83)) [] ∧
    decode [0x19, 0xFC] = .ok (.leay (.short (.acc .pc .a))) [] ∧
    decode [0x1A, 0x4F] = .ok (.leax (.short (.const5 .y 15))) [] ∧
    decode [0x1B, 0x90] = .ok (.leas (.short (.const5 .sp (-16)))) [] ∧
    decode [0x1C, 0x56, 0x78, 0x81] = .ok (.bset (.ext 0x5678) 0x81) [] ∧
    decode [0x1D, 0x56, 0x78, 0x81] = .ok (.bclr (.ext 0x5678) 0x81) [] ∧
    decode [0x1E, 0x56, 0x78, 0x81, 0xF0] = .ok (.brset (.ext 0x5678) 0x81 0xF0) [] ∧
    decode [0x1F, 0x56, 0x78, 0x81, 0xF0] = .ok (.brclr (.ext 0x5678) 0x81 0xF0) [] ∧
    decode [0x20, 0x91] = .ok (.bra 0x91) [] ∧
    decode [0x21, 0x91] = .ok (.brn 0x91) [] := by
  decide +kernel

theorem test_decode_02 :
    decode [0x22, 0x91] = .ok (.bhi 0x91) [] ∧
    decode [0x23, 0x91] = .ok (.bls 0x91) [] ∧
    decode [0x24, 0x91] = .ok (.bcc 0x91) [] ∧
    decode [0x25, 0x91] = .ok (.bcs 0x91) [] ∧
    decode [0x26, 0x91] = .ok (.bne 0x91) [] ∧
    decode [0x27, 0x91] = .ok (.beq 0x91) [] ∧
    decode [0x28, 0x91] = .ok (.bvc 0x91) [] ∧
    decode [0x29, 0x91] = .ok (.bvs 0x91) [] ∧
    decode [0x2A, 0x91] = .ok (.bpl 0x91) [] ∧
    decode [0x2B, 0x91] = .ok (.bmi 0x91) [] ∧
    decode [0x2C, 0x91] = .ok (.bge 0x91) [] ∧
    decode [0x2D, 0x91] = .ok (.blt 0x91) [] ∧
    decode [0x2E, 0x91] = .ok (.bgt 0x91) [] ∧
    decode [0x2F, 0x91] = .ok (.ble 0x91) [] ∧
    decode [0x30] = .ok .pulx [] ∧
    decode [0x31] = .ok .puly [] := by
  decide +kernel

theorem test_decode_03 :
    decode [0x32] = .ok .pula [] ∧
    decode [0x33] = .ok .pulb [] ∧
    decode [0x34] = .ok .pshx [] ∧
    decode [0x35] = .ok .pshy [] ∧
    decode [0x36] = .ok .psha [] ∧
    decode [0x37] = .ok .pshb [] ∧
    decode [0x38] = .ok .pulc [] ∧
    decode [0x39] = .ok .pshc [] ∧
    decode [0x3A] = .ok .puld [] ∧
    decode [0x3B] = .ok .pshd [] ∧
    decode [0x3C] = .ok .wavr [] ∧
    decode [0x3D] = .ok .rts [] ∧
    decode [0x3E] = .ok .wai [] ∧
    decode [0x3F] = .ok .swi [] ∧
    decode [0x40] = .ok .nega [] ∧
    decode [0x41] = .ok .coma [] := by
  decide +kernel

theorem test_decode_04 :
    decode [0x42] = .ok .inca [] ∧
    decode [0x43] = .ok .deca [] ∧
    decode [0x44] = .ok .lsra [] ∧
    decode [0x45] = .ok .rola [] ∧
    decode [0x46] = .ok .rora [] ∧
    decode [0x47] = .ok .asra [] ∧
    decode [0x48] = .ok .lsla [] ∧
    decode [0x49] = .ok .lsrd [] ∧
    decode [0x4A, 0x56, 0x78, 0x30] = .ok (.call (.ext 0x5678 0x30)) [] ∧
    decode [0x4B, 0xF1, 0x80, 0x30] = .ok (.call (.idx (.const9 .sp 0x180) 0x30)) [] ∧
    decode [0x4B, 0xF3, 0xFE, 0xDC] = .ok (.call (.ind16 .sp 0xFEDC)) [] ∧
    decode [0x4B, 0xEF] = .ok (.call (.indD .y)) [] ∧
    decode [0x4C, 0x83, 0x81] = .ok (.bset (.dir 0x83) 0x81) [] ∧
    decode [0x4D, 0x83, 0x81] = .ok (.bclr (.dir 0x83) 0x81) [] ∧
    decode [0x4E, 0x83, 0x81, 0xF0] = .ok (.brset (.dir 0x83) 0x81 0xF0) [] ∧
    decode [0x4F, 0x83, 0x81, 0xF0] = .ok (.brclr (.dir 0x83) 0x81 0xF0) [] := by
  decide +kernel

theorem test_decode_05 :
    decode [0x50] = .ok .negb [] ∧
    decode [0x51] = .ok .comb [] ∧
    decode [0x52] = .ok .incb [] ∧
    decode [0x53] = .ok .decb [] ∧
    decode [0x54] = .ok .lsrb [] ∧
    decode [0x55] = .ok .rolb [] ∧
    decode [0x56] = .ok .rorb [] ∧
    decode [0x57] = .ok .asrb [] ∧
    decode [0x58] = .ok .lslb [] ∧
    decode [0x59] = .ok .lsld [] ∧
    decode [0x5A, 0x83] = .ok (.staa (.dir 0x83)) [] ∧
    decode [0x5B, 0x83] = .ok (.stab (.dir 0x83)) [] ∧
    decode [0x5C, 0x83] = .ok (.std (.dir 0x83)) [] ∧
    decode [0x5D, 0x83] = .ok (.sty (.dir 0x83)) [] ∧
    decode [0x5E, 0x83] = .ok (.stx (.dir 0x83)) [] ∧
    decode [0x5F, 0x83] = .ok (.sts (.dir 0x83)) [] := by
  decide +kernel

theorem test_decode_06 :
    decode [0x60, 0x4F] = .ok (.neg (.idx (.direct (.short (.const5 .y 15))))) [] ∧
    decode [0x61, 0x90] = .ok (.com (.idx (.direct (.short (.const5 .sp (-16)))))) [] ∧
    decode [0x62, 0x29] = .ok (.inc (.idx (.direct (.short (.pre .x 9))))) [] ∧
    decode [0x63, 0x75] = .ok (.dec (.idx (.direct (.short (.post .y 5))))) [] ∧
    decode [0x64, 0xF1, 0x80] = .ok (.lsr (.idx (.direct (.const9 .sp 0x180)))) [] ∧
    decode [0x65, 0xFA, 0x12, 0x34] = .ok (.rol (.idx (.direct (.const16 .pc 0x1234)))) [] ∧
    decode [0x66, 0xE6] = .ok (.ror (.idx (.direct (.short (.acc .x .d))))) [] ∧
    decode [0x67, 0xEF] = .ok (.asr (.idx (.indD .y))) [] ∧
    decode [0x68, 0xF3, 0xFE, 0xDC] = .ok (.lsl (.idx (.ind16 .sp 0xFEDC))) [] ∧
    decode [0x68, 0xFC] = .ok (.lsl (.idx (.direct (.short (.acc .pc .a))))) [] ∧
    decode [0x69, 0x4F] = .ok (.clr (.idx (.direct (.short (.const5 .y 15))))) [] ∧
    decode [0x6A, 0x90] = .ok (.staa (.idx (.direct (.short (.const5 .sp (-16)))))) [] ∧
    decode [0x6B, 0x29] = .ok (.stab (.idx (.direct (.short (.pre .x 9))))) [] ∧
    decode [0x6C, 0x75] = .ok (.std (.idx (.direct (.short (.post .y 5))))) [] ∧
    decode [0x6D, 0xF1, 0x80] = .ok (.sty (.idx (.direct (.const9 .sp 0x180)))) [] ∧
    decode [0x6E, 0xFA, 0x12, 0x34] = .ok (.stx (.idx (.direct (.const16 .pc 0x1234)))) [] := by
  decide +kernel

theorem test_decode_07 :
    decode [0x6F, 0xE6] = .ok (.sts (.idx (.direct (.short (.acc .x .d))))) [] ∧
    decode [0x70, 0x56, 0x78] = .ok (.neg (.ext 0x5678)) [] ∧
    decode [0x71, 0x56, 0x78] = .ok (.com (.ext 0x5678)) [] ∧
    decode [0x72, 0x56, 0x78] = .ok (.inc (.ext 0x5678)) [] ∧
    decode [0x73, 0x56, 0x78] = .ok (.dec (.ext 0x5678)) [] ∧
    decode [0x74, 0x56, 0x78] = .ok (.lsr (.ext 0x5678)) [] ∧
    decode [0x75, 0x56, 0x78] = .ok (.rol (.ext 0x5678)) [] ∧
    decode [0x76, 0x56, 0x78] = .ok (.ror (.ext 0x5678)) [] ∧
    decode [0x77, 0x56, 0x78] = .ok (.asr (.ext 0x5678)) [] ∧
    decode [0x78, 0x56, 0x78] = .ok (.lsl (.ext 0x5678)) [] ∧
    decode [0x79, 0x56, 0x78] = .ok (.clr (.ext 0x5678)) [] ∧
    decode [0x7A, 0x56, 0x78] = .ok (.staa (.ext 0x5678)) [] ∧
    decode [0x7B, 0x56, 0x78] = .ok (.stab (.ext 0x5678)) [] ∧
    decode [0x7C, 0x56, 0x78] = .ok (.std (.ext 0x5678)) [] ∧
    decode [0x7D, 0x56, 0x78] = .ok (.sty (.ext 0x5678)) [] ∧
    decode [0x7E, 0x56, 0x78] = .ok (.stx (.ext 0x5678)) [] := by
  decide +kernel

theorem test_decode_08 :
    decode [0x7F, 0x56, 0x78] = .ok (.sts (.ext 0x5678)) [] ∧
    decode [0x80, 0x91] = .ok (.suba (.imm 0x91)) [] ∧
    decode [0x81, 0x91] = .ok (.cmpa (.imm 0x91)) [] ∧
    decode [0x82, 0x91] = .ok (.sbca (.imm 0x91)) [] ∧
    decode [0x83, 0x91, 0x25] = .ok (.subd (.imm 0x9125)) [] ∧
    decode [0x84, 0x91] = .ok (.anda (.imm 0x91)) [] ∧
    decode [0x85, 0x91] = .ok (.bita (.imm 0x91)) [] ∧
    decode [0x86, 0x91] = .ok (.ldaa (.imm 0x91)) [] ∧
    decode [0x87] = .ok .clra [] ∧
    decode [0x88, 0x91] = .ok (.eora (.imm 0x91)) [] ∧
    decode [0x89, 0x91] = .ok (.adca (.imm 0x91)) [] ∧
    decode [0x8A, 0x91] = .ok (.oraa (.imm 0x91)) [] ∧
    decode [0x8B, 0x91] = .ok (.adda (.imm 0x91)) [] ∧
    decode [0x8C, 0x91, 0x25] = .ok (.cpd (.imm 0x9125)) [] ∧
    decode [0x8D, 0x91, 0x25] = .ok (.cpy (.imm 0x9125)) [] ∧
    decode [0x8E, 0x91, 0x25] = .ok (.cpx (.imm 0x9125)) [] := by
  decide +kernel

theorem test_decode_09 :
    decode [0x8F, 0x91, 0x25] = .ok (.cps (.imm 0x9125)) [] ∧
    decode [0x90, 0x83] = .ok (.suba (.mem (.dir 0x83))) [] ∧
    decode [0x91, 0x83] = .ok (.cmpa (.mem (.dir 0x83))) [] ∧
    decode [0x92, 0x83] = .ok (.sbca (.mem (.dir 0x83))) [] ∧
    decode [0x93, 0x83] = .ok (.subd (.mem (.dir 0x83))) [] ∧
    decode [0x94, 0x83] = .ok (.anda (.mem (.dir 0x83))) [] ∧
    decode [0x95, 0x83] = .ok (.bita (.mem (.dir 0x83))) [] ∧
    decode [0x96, 0x83] = .ok (.ldaa (.mem (.dir 0x83))) [] ∧
    decode [0x97] = .ok .tsta [] ∧
    decode [0x98, 0x83] = .ok (.eora (.mem (.dir 0x83))) [] ∧
    decode [0x99, 0x83] = .ok (.adca (.mem (.dir 0x83))) [] ∧
    decode [0x9A, 0x83] = .ok (.oraa (.mem (.dir 0x83))) [] ∧
    decode [0x9B, 0x83] = .ok (.adda (.mem (.dir 0x83))) [] ∧
    decode [0x9C, 0x83] = .ok (.cpd (.mem (.dir 0x83))) [] ∧
    decode [0x9D, 0x83] = .ok (.cpy (.mem (.dir 0x83))) [] ∧
    decode [0x9E, 0x83] = .ok (.cpx (.mem (.dir 0x83))) [] := by
  decide +kernel

theorem test_decode_10 :
    decode [0x9F, 0x83] = .ok (.cps (.mem (.dir 0x83))) [] ∧
    decode [0xA0, 0xEF] = .ok (.suba (.mem (.idx (.indD .y)))) [] ∧
    decode [0xA1, 0xF3, 0xFE, 0xDC] = .ok (.cmpa (.mem (.idx (.ind16 .sp 0xFEDC)))) [] ∧
    decode [0xA2, 0xFC] = .ok (.sbca (.mem (.idx (.direct (.short (.acc .pc .a)))))) [] ∧
    decode [0xA3, 0x4F] = .ok (.subd (.mem (.idx (.direct (.short (.const5 .y 15)))))) [] ∧
    decode [0xA4, 0x90] = .ok (.anda (.mem (.idx (.direct (.short (.const5 .sp (-16))))))) [] ∧
    decode [0xA5, 0x29] = .ok (.bita (.mem (.idx (.direct (.short (.pre .x 9)))))) [] ∧
    decode [0xA6, 0x75] = .ok (.ldaa (.mem (.idx (.direct (.short (.post .y 5)))))) [] ∧
    decode [0xA7] = .ok .nop [] ∧
    decode [0xA8, 0xF1, 0x80] = .ok (.eora (.mem (.idx (.direct (.const9 .sp 0x180))))) [] ∧
    decode [0xA9, 0xFA, 0x12, 0x34] = .ok (.adca (.mem (.idx (.direct (.const16 .pc 0x1234))))) [] ∧
    decode [0xAA, 0xE6] = .ok (.oraa (.mem (.idx (.direct (.short (.acc .x .d)))))) [] ∧
    decode [0xAB, 0xEF] = .ok (.adda (.mem (.idx (.indD .y)))) [] ∧
    decode [0xAC, 0xF3, 0xFE, 0xDC] = .ok (.cpd (.mem (.idx (.ind16 .sp 0xFEDC)))) [] ∧
    decode [0xAD, 0xFC] = .ok (.cpy (.mem (.idx (.direct (.short (.acc .pc .a)))))) [] ∧
    decode [0xAE, 0x4F] = .ok (.cpx (.mem (.idx (.direct (.short (.const5 .y 15)))))) [] := by
  decide +kernel

theorem test_decode_11 :
    decode [0xAF, 0x90] = .ok (.cps (.mem (.idx (.direct (.short (.const5 .sp (-16))))))) [] ∧
    decode [0xB0, 0x56, 0x78] = .ok (.suba (.mem (.ext 0x5678))) [] ∧
    decode [0xB1, 0x56, 0x78] = .ok (.cmpa (.mem (.ext 0x5678))) [] ∧
    decode [0xB2, 0x56, 0x78] = .ok (.sbca (.mem (.ext 0x5678))) [] ∧
    decode [0xB3, 0x56, 0x78] = .ok (.subd (.mem (.ext 0x5678))) [] ∧
    decode [0xB4, 0x56, 0x78] = .ok (.anda (.mem (.ext 0x5678))) [] ∧
    decode [0xB5, 0x56, 0x78] = .ok (.bita (.mem (.ext 0x5678))) [] ∧
    decode [0xB6, 0x56, 0x78] = .ok (.ldaa (.mem (.ext 0x5678))) [] ∧
    decode [0xB8, 0x56, 0x78] = .ok (.eora (.mem (.ext 0x5678))) [] ∧
    decode [0xB9, 0x56, 0x78] = .ok (.adca (.mem (.ext 0x5678))) [] ∧
    decode [0xBA, 0x56, 0x78] = .ok (.oraa (.mem (.ext 0x5678))) [] ∧
    decode [0xBB, 0x56, 0x78] = .ok (.adda (.mem (.ext 0x5678))) [] ∧
    decode [0xBC, 0x56, 0x78] = .ok (.cpd (.mem (.ext 0x5678))) [] ∧
    decode [0xBD, 0x56, 0x78] = .ok (.cpy (.mem (.ext 0x5678))) [] ∧
    decode [0xBE, 0x56, 0x78] = .ok (.cpx (.mem (.ext 0x5678))) [] ∧
    decode [0xBF, 0x56, 0x78] = .ok (.cps (.mem (.ext 0x5678))) [] := by
  decide +kernel

theorem test_decode_12 :
    decode [0xC0, 0x91] = .ok (.subb (.imm 0x91)) [] ∧
    decode [0xC1, 0x91] = .ok (.cmpb (.imm 0x91)) [] ∧
    decode [0xC2, 0x91] = .ok (.sbcb (.imm 0x91)) [] ∧
    decode [0xC3, 0x91, 0x25] = .ok (.addd (.imm 0x9125)) [] ∧
    decode [0xC4, 0x91] = .ok (.andb (.imm 0x91)) [] ∧
    decode [0xC5, 0x91] = .ok (.bitb (.imm 0x91)) [] ∧
    decode [0xC6, 0x91] = .ok (.ldab (.imm 0x91)) [] ∧
    decode [0xC7] = .ok .clrb [] ∧
    decode [0xC8, 0x91] = .ok (.eorb (.imm 0x91)) [] ∧
    decode [0xC9, 0x91] = .ok (.adcb (.imm 0x91)) [] ∧
    decode [0xCA, 0x91] = .ok (.orab (.imm 0x91)) [] ∧
    decode [0xCB, 0x91] = .ok (.addb (.imm 0x91)) [] ∧
    decode [0xCC, 0x91, 0x25] = .ok (.ldd (.imm 0x9125)) [] ∧
    decode [0xCD, 0x91, 0x25] = .ok (.ldy (.imm 0x9125)) [] ∧
    decode [0xCE, 0x91, 0x25] = .ok (.ldx (.imm 0x9125)) [] ∧
    decode [0xCF, 0x91, 0x25] = .ok (.lds (.imm 0x9125)) [] := by
  decide +kernel

theorem test_decode_13 :
    decode [0xD0, 0x83] = .ok (.subb (.mem (.dir 0x83))) [] ∧
    decode [0xD1, 0x83] = .ok (.cmpb (.mem (.dir 0x83))) [] ∧
    decode [0xD2, 0x83] = .ok (.sbcb (.mem (.dir 0x83))) [] ∧
    decode [0xD3, 0x83] = .ok (.addd (.mem (.dir 0x83))) [] ∧
    decode [0xD4, 0x83] = .ok (.andb (.mem (.dir 0x83))) [] ∧
    decode [0xD5, 0x83] = .ok (.bitb (.mem (.dir 0x83))) [] ∧
    decode [0xD6, 0x83] = .ok (.ldab (.mem (.dir 0x83))) [] ∧
    decode [0xD7] = .ok .tstb [] ∧
    decode [0xD8, 0x83] = .ok (.eorb (.mem (.dir 0x83))) [] ∧
    decode [0xD9, 0x83] = .ok (.adcb (.mem (.dir 0x83))) [] ∧
    decode [0xDA, 0x83] = .ok (.orab (.mem (.dir 0x83))) [] ∧
    decode [0xDB, 0x83] = .ok (.addb (.mem (.dir 0x83))) [] ∧
    decode [0xDC, 0x83] = .ok (.ldd (.mem (.dir 0x83))) [] ∧
    decode [0xDD, 0x83] = .ok (.ldy (.mem (.dir 0x83))) [] ∧
    decode [0xDE, 0x83] = .ok (.ldx (.mem (.dir 0x83))) [] ∧
    decode [0xDF, 0x83] = .ok (.lds (.mem (.dir 0x83))) [] := by
  decide +kernel

theorem test_decode_14 :
    decode [0xE0, 0x29] = .ok (.subb (.mem (.idx (.direct (.short (.pre .x 9)))))) [] ∧
    decode [0xE1, 0x75] = .ok (.cmpb (.mem (.idx (.direct (.short (.post .y 5)))))) [] ∧
    decode [0xE2, 0xF1, 0x80] = .ok (.sbcb (.mem (.idx (.direct (.const9 .sp 0x180))))) [] ∧
    decode [0xE3, 0xFA, 0x12, 0x34] = .ok (.addd (.mem (.idx (.direct (.const16 .pc 0x1234))))) [] ∧
    decode [0xE4, 0xE6] = .ok (.andb (.mem (.idx (.direct (.short (.acc .x .d)))))) [] ∧
    decode [0xE5, 0xEF] = .ok (.bitb (.mem (.idx (.indD .y)))) [] ∧
    decode [0xE6, 0xF3, 0xFE, 0xDC] = .ok (.ldab (.mem (.idx (.ind16 .sp 0xFEDC)))) [] ∧
    decode [0xE7, 0xFC] = .ok (.tst (.idx (.direct (.short (.acc .pc .a))))) [] ∧
    decode [0xE8, 0x4F] = .ok (.eorb (.mem (.idx (.direct (.short (.const5 .y 15)))))) [] ∧
    decode [0xE9, 0x90] = .ok (.adcb (.mem (.idx (.direct (.short (.const5 .sp (-16))))))) [] ∧
    decode [0xEA, 0x29] = .ok (.orab (.mem (.idx (.direct (.short (.pre .x 9)))))) [] ∧
    decode [0xEB, 0x75] = .ok (.addb (.mem (.idx (.direct (.short (.post .y 5)))))) [] ∧
    decode [0xEC, 0xF1, 0x80] = .ok (.ldd (.mem (.idx (.direct (.const9 .sp 0x180))))) [] ∧
    decode [0xED, 0xFA, 0x12, 0x34] = .ok (.ldy (.mem (.idx (.direct (.const16 .pc 0x1234))))) [] ∧
    decode [0xEE, 0xE6] = .ok (.ldx (.mem (.idx (.direct (.short (.acc .x .d)))))) [] ∧
    decode [0xEF, 0xEF] = .ok (.lds (.mem (.idx (.indD .y)))) [] := by
  decide +kernel

theorem test_decode_15 :
    decode [0xF0, 0x56, 0x78] = .ok (.subb (.mem (.ext 0x5678))) [] ∧
    decode [0xF1, 0x56, 0x78] = .ok (.cmpb (.mem (.ext 0x5678))) [] ∧
    decode [0xF2, 0x56, 0x78] = .ok (.sbcb (.mem (.ext 0x5678))) [] ∧
    decode [0xF3, 0x56, 0x78] = .ok (.addd (.mem (.ext 0x5678))) [] ∧
    decode [0xF4, 0x56, 0x78] = .ok (.andb (.mem (.ext 0x5678))) [] ∧
    decode [0xF5, 0x56, 0x78] = .ok (.bitb (.mem (.ext 0x5678))) [] ∧
    decode [0xF6, 0x56, 0x78] = .ok (.ldab (.mem (.ext 0x5678))) [] ∧
    decode [0xF7, 0x56, 0x78] = .ok (.tst (.ext 0x5678)) [] ∧
    decode [0xF8, 0x56, 0x78] = .ok (.eorb (.mem (.ext 0x5678))) [] ∧
    decode [0xF9, 0x56, 0x78] = .ok (.adcb (.mem (.ext 0x5678))) [] ∧
    decode [0xFA, 0x56, 0x78] = .ok (.orab (.mem (.ext 0x5678))) [] ∧
    decode [0xFB, 0x56, 0x78] = .ok (.addb (.mem (.ext 0x5678))) [] ∧
    decode [0xFC, 0x56, 0x78] = .ok (.ldd (.mem (.ext 0x5678))) [] ∧
    decode [0xFD, 0x56, 0x78] = .ok (.ldy (.mem (.ext 0x5678))) [] ∧
    decode [0xFE, 0x56, 0x78] = .ok (.ldx (.mem (.ext 0x5678))) [] ∧
    decode [0xFF, 0x56, 0x78] = .ok (.lds (.mem (.ext 0x5678))) [] := by
  decide +kernel

theorem test_decode_16 :
    decode [0x04, 0x04, 0xFA] = .ok (.dbeq .d 0x0FA) [] ∧
    decode [0x04, 0x31, 0xFA] = .ok (.dbne .b 0x1FA) [] ∧
    decode [0x04, 0x45, 0xFA] = .ok (.tbeq .x 0x0FA) [] ∧
    decode [0x04, 0x76, 0xFA] = .ok (.tbne .y 0x1FA) [] ∧
    decode [0x04, 0x97, 0xFA] = .ok (.ibeq .sp 0x1FA) [] ∧
    decode [0x04, 0xA0, 0xFA] = .ok (.ibne .a 0x0FA) [] ∧
    decode [0xB7, 0x56] = .ok (.tfr (.r16 .x) (.r16 .y)) [] ∧
    decode [0xB7, 0x94] = .ok (.exg (.r8 .b) (.r16 .d)) [] ∧
    decode [0xB7, 0x27] = .ok (.tfr (.r8 .ccr) (.r16 .sp)) [] ∧
    decode [0xB7, 0x02] = .ok (.tfr (.r8 .a) (.r8 .ccr)) [] ∧
    decode [0xB7, 0x20] = .ok (.tfr (.r8 .ccr) (.r8 .a)) [] ∧
    decode [0xB7, 0x75] = .ok (.tfr (.r16 .sp) (.r16 .x)) [] ∧
    decode [0xB7, 0x76] = .ok (.tfr (.r16 .sp) (.r16 .y)) [] ∧
    decode [0xB7, 0x57] = .ok (.tfr (.r16 .x) (.r16 .sp)) [] ∧
    decode [0xB7, 0x67] = .ok (.tfr (.r16 .y) (.r16 .sp)) [] ∧
    decode [0xB7, 0xC5] = .ok (.exg (.r16 .d) (.r16 .x)) [] := by
  decide +kernel

theorem test_decode_17 :
    decode [0xB7, 0xC6] = .ok (.exg (.r16 .d) (.r16 .y)) [] ∧
    decode [0x1A, 0xE5] = .ok (.leax (.short (.acc .x .b))) [] ∧
    decode [0x19, 0xED] = .ok (.leay (.short (.acc .y .b))) [] ∧
    decode [0x1B, 0x9F] = .ok (.leas (.short (.const5 .sp (-1)))) [] ∧
    decode [0x1B, 0x81] = .ok (.leas (.short (.const5 .sp 1))) [] ∧
    decode [0x10, 0xFE] = .ok (.andcc 0xFE) [] ∧
    decode [0x10, 0xEF] = .ok (.andcc 0xEF) [] ∧
    decode [0x10, 0xFD] = .ok (.andcc 0xFD) [] ∧
    decode [0x14, 0x01] = .ok (.orcc 0x01) [] ∧
    decode [0x14, 0x10] = .ok (.orcc 0x10) [] ∧
    decode [0x14, 0x02] = .ok (.orcc 0x02) [] ∧
    decode [0x18, 0x00, 0xFC, 0x91, 0x25] = .ok (.movw (.imm 0x9125) (.idx (.acc .pc .a))) [] ∧
    decode [0x18, 0x01, 0x90, 0x56, 0x78] = .ok (.movw (.ext 0x5678) (.idx (.const5 .sp (-16)))) [] ∧
    decode [0x18, 0x02, 0x29, 0x75] = .ok (.movw (.idx (.pre .x 9)) (.idx (.post .y 5))) [] ∧
    decode [0x18, 0x03, 0x91, 0x25, 0x9A, 0xBC] = .ok (.movw (.imm 0x9125) (.ext 0x9ABC)) [] ∧
    decode [0x18, 0x04, 0x56, 0x78, 0x9A, 0xBC] = .ok (.movw (.ext 0x5678) (.ext 0x9ABC)) [] := by
  decide +kernel

theorem test_decode_18 :
    decode [0x18, 0x05, 0x29, 0x9A, 0xBC] = .ok (.movw (.idx (.pre .x 9)) (.ext 0x9ABC)) [] ∧
    decode [0x18, 0x08, 0xFC, 0x91] = .ok (.movb (.imm 0x91) (.idx (.acc .pc .a))) [] ∧
    decode [0x18, 0x09, 0x90, 0x56, 0x78] = .ok (.movb (.ext 0x5678) (.idx (.const5 .sp (-16)))) [] ∧
    decode [0x18, 0x0A, 0x29, 0x75] = .ok (.movb (.idx (.pre .x 9)) (.idx (.post .y 5))) [] ∧
    decode [0x18, 0x0B, 0x91, 0x9A, 0xBC] = .ok (.movb (.imm 0x91) (.ext 0x9ABC)) [] ∧
    decode [0x18, 0x0C, 0x56, 0x78, 0x9A, 0xBC] = .ok (.movb (.ext 0x5678) (.ext 0x9ABC)) [] ∧
    decode [0x18, 0x0D, 0x29, 0x9A, 0xBC] = .ok (.movb (.idx (.pre .x 9)) (.ext 0x9ABC)) [] ∧
    decode [0x18, 0x06] = .ok .aba [] ∧
    decode [0x18, 0x07] = .ok .daa [] ∧
    decode [0x18, 0x0E] = .ok .tab [] ∧
    decode [0x18, 0x0F] = .ok .tba [] ∧
    decode [0x18, 0x10] = .ok .idiv [] ∧
    decode [0x18, 0x11] = .ok .fdiv [] ∧
    decode [0x18, 0x13] = .ok .emuls [] ∧
    decode [0x18, 0x14] = .ok .edivs [] ∧
    decode [0x18, 0x15] = .ok .idivs [] := by
  decide +kernel

theorem test_decode_19 :
    decode [0x18, 0x16] = .ok .sba [] ∧
    decode [0x18, 0x17] = .ok .cba [] ∧
    decode [0x18, 0x3A] = .ok .rev [] ∧
    decode [0x18, 0x3B] = .ok .revw [] ∧
    decode [0x18, 0x3C] = .ok .wav [] ∧
    decode [0x18, 0x3E] = .ok .stop [] ∧
    decode [0x18, 0x12, 0x56, 0x78] = .ok (.emacs 0x5678) [] ∧
    decode [0x18, 0x18, 0x29] = .ok (.maxa (.direct (.short (.pre .x 9)))) [] ∧
    decode [0x18, 0x19, 0x75] = .ok (.mina (.direct (.short (.post .y 5)))) [] ∧
    decode [0x18, 0x1A, 0xF1, 0x80] = .ok (.emaxd (.direct (.const9 .sp 0x180))) [] ∧
    decode [0x18, 0x1B, 0xFA, 0x12, 0x34] = .ok (.emind (.direct (.const16 .pc 0x1234))) [] ∧
    decode [0x18, 0x1C, 0xE6] = .ok (.maxm (.direct (.short (.acc .x .d)))) [] ∧
    decode [0x18, 0x1D, 0xEF] = .ok (.minm (.indD .y)) [] ∧
    decode [0x18, 0x1E, 0xF3, 0xFE, 0xDC] = .ok (.emaxm (.ind16 .sp 0xFEDC)) [] ∧
    decode [0x18, 0x1F, 0xFC] = .ok (.eminm (.direct (.short (.acc .pc .a)))) [] ∧
    decode [0x18, 0x3D, 0x4F] = .ok (.tbl (.const5 .y 15)) [] := by
  decide +kernel

theorem test_decode_20 :
    decode [0x18, 0x3F, 0x90] = .ok (.etbl (.const5 .sp (-16))) [] ∧
    decode [0x18, 0x20, 0x91, 0x25] = .ok (.lbra 0x9125) [] ∧
    decode [0x18, 0x21, 0x91, 0x25] = .ok (.lbrn 0x9125) [] ∧
    decode [0x18, 0x22, 0x91, 0x25] = .ok (.lbhi 0x9125) [] ∧
    decode [0x18, 0x23, 0x91, 0x25] = .ok (.lbls 0x9125) [] ∧
    decode [0x18, 0x24, 0x91, 0x25] = .ok (.lbcc 0x9125) [] ∧
    decode [0x18, 0x25, 0x91, 0x25] = .ok (.lbcs 0x9125) [] ∧
    decode [0x18, 0x26, 0x91, 0x25] = .ok (.lbne 0x9125) [] ∧
    decode [0x18, 0x27, 0x91, 0x25] = .ok (.lbeq 0x9125) [] ∧
    decode [0x18, 0x28, 0x91, 0x25] = .ok (.lbvc 0x9125) [] ∧
    decode [0x18, 0x29, 0x91, 0x25] = .ok (.lbvs 0x9125) [] ∧
    decode [0x18, 0x2A, 0x91, 0x25] = .ok (.lbpl 0x9125) [] ∧
    decode [0x18, 0x2B, 0x91, 0x25] = .ok (.lbmi 0x9125) [] ∧
    decode [0x18, 0x2C, 0x91, 0x25] = .ok (.lbge 0x9125) [] ∧
    decode [0x18, 0x2D, 0x91, 0x25] = .ok (.lblt 0x9125) [] ∧
    decode [0x18, 0x2E, 0x91, 0x25] = .ok (.lbgt 0x9125) [] := by
  decide +kernel

theorem test_decode_21 :
    decode [0x18, 0x2F, 0x91, 0x25] = .ok (.lble 0x9125) [] ∧
    decode [0x18, 0x30] = .ok (.trap 0x30) [] ∧
    decode [0x18, 0x39] = .ok (.trap 0x39) [] ∧
    decode [0x18, 0x40] = .ok (.trap 0x40) [] ∧
    decode [0x18, 0xFF] = .ok (.trap 0xFF) [] := by
  decide +kernel

/-- The postbytes and codes that the spec reserves are refused by name (R129, R141, R145), and bytes that end too early. -/
theorem test_decode_reserved :
    decode [0x1A, 0xE7, 0x00] = .bad .reservedIndexed ∧ decode [0x1B, 0xE3, 0x12, 0x34] = .bad .reservedIndexed ∧
    decode [0x18, 0x3D, 0xE0, 0x01] = .bad .reservedIndexed ∧ decode [0x18, 0x0A, 0x00, 0xE8, 0x01] = .bad .reservedIndexed ∧
    decode [0x0C, 0xEF, 0x01] = .bad .reservedIndexed ∧ decode [0xB7, 0x03] = .bad .reservedTransfer ∧
    decode [0xB7, 0x30] = .bad .reservedTransfer ∧ decode [0xB7, 0x08] = .bad .reservedTransfer ∧
    decode [0x04, 0x02, 0x00] = .bad .reservedLoop ∧ decode [0x04, 0xC0, 0x00] = .bad .reservedLoop ∧
    decode [0x04, 0x08, 0x00] = .bad .reservedLoop ∧ decode [0x86] = .bad .truncated := by
  decide +kernel

/-! ## Reset -/

theorem test_reset_memory_is_canonical : Memory.wf State.reset.mem = true := by decide
/-! ## Steps -/

/-- Bytes from an address on. -/
def put (m : Memory) (a : Word) : List Byte → Memory
  | [] => m
  | b :: rest => put (Memory.write m a.toNat b) (a + 1) rest

/-- The state of the vectors: PC $4000, the bytes given at their addresses. -/
def placed (cells : List (Word × List Byte)) : State :=
  { State.reset with pc := 0x4000, mem := cells.foldl (fun m c => put m c.1 c.2) [] }

/-- The parameters with the debug system enabled. -/
def withDebug : Config := { defaultConfig with bdmEnabled := true }

/-- Does the step answer a next state for which `p` holds? -/
def answers (r : Result) (p : State → Bool) : Bool :=
  match r with
  | .next t => p t
  | .fault _ => false
  | .refused _ => false

/-- Does the step refuse? -/
def refuses (r : Result) : Bool :=
  match r with
  | .next _ => false
  | .fault _ => false
  | .refused _ => true

/-- Do these bytes stand at `a` and after it? -/
def bytesAt (s : State) (a : Word) : List Byte → Bool
  | [] => true
  | b :: rest => s.peek a == b && bytesAt s (a + 1) rest

theorem test_T100_ldaa : answers (step (placed [(0x4000, [0x86, 0x80])])) (fun t =>
    t.a == 0x80 && t.pc == 0x4002 && t.ccr == 0b11011000) = true := by decide +kernel

theorem test_T102_ldab : answers (step (placed [(0x4000, [0xD6, 0x10]), (0x0010, [0x7F])])) (fun t =>
    t.b == 0x7F && t.pc == 0x4002 && t.ccr == 0b11010000) = true := by decide +kernel

theorem test_T103_ldd : answers (step (placed [(0x4000, [0xFC, 0x10, 0x00]), (0x1000, [0x12, 0x34])])) (fun t =>
    t.a == 0x12 && t.b == 0x34 && t.pc == 0x4003 && t.ccr == 0b11010000) = true := by decide +kernel

theorem test_T105_ldy : answers (step { placed [(0x4000, [0xED, 0x31]), (0x1000, [0x80, 0x01])] with x := 0x1000 }) (fun t =>
    t.x == 0x1002 && t.y == 0x8001 && t.pc == 0x4002 && t.ccr == 0b11011000) = true := by decide +kernel

theorem test_T117_ldx : answers (step (placed [(0x4000, [0xEE, 0xF8, 0x10]), (0x4013, [0xCA, 0xFE])])) (fun t =>
    t.x == 0xCAFE && t.pc == 0x4003 && t.ccr == 0b11011000) = true := by decide +kernel

theorem test_T118_lds : answers (step (placed [(0x4000, [0xCF, 0x0C, 0x00])])) (fun t =>
    t.sp == 0x0C00 && t.pc == 0x4003 && t.ccr == 0b11010000) = true := by decide +kernel

theorem test_T120_staa : answers (step { placed [(0x4000, [0x5A, 0x20])] with a := 0x00, ccr := 0xDB }) (fun t =>
    bytesAt t 0x0020 [0x00] && t.pc == 0x4002 && t.ccr == 0b11010101) = true := by decide +kernel

theorem test_T121_std : answers (step { placed [(0x4000, [0x6C, 0xAE])] with a := 0x12, b := 0x34, sp := 0x0C00 }) (fun t =>
    t.sp == 0x0BFE && bytesAt t 0x0BFE [0x12] && bytesAt t 0x0BFF [0x34] && t.pc == 0x4002 && t.ccr == 0b11010000) = true := by decide +kernel

theorem test_T122_stx : answers (step { placed [(0x4000, [0x7E, 0xFF, 0xFF])] with x := 0xA55A }) (fun t =>
    bytesAt t 0x0000 [0x5A] && bytesAt t 0xFFFF [0xA5] && t.pc == 0x4003 && t.ccr == 0b11011000) = true := by decide +kernel

theorem test_T123_stab : answers (step { placed [(0x4000, [0x6B, 0x30])] with b := 0x80, x := 0x1000 }) (fun t =>
    t.x == 0x1001 && bytesAt t 0x1000 [0x80] && t.pc == 0x4002 && t.ccr == 0b11011000) = true := by decide +kernel

theorem test_T124_sty : answers (step { placed [(0x4000, [0x6D, 0x40])] with y := 0x0001 }) (fun t =>
    bytesAt t 0x0001 [0x00] && bytesAt t 0x0002 [0x01] && t.pc == 0x4002 && t.ccr == 0b11010000) = true := by decide +kernel

theorem test_T125_sts : answers (step { placed [(0x4000, [0x7F, 0x08, 0x00])] with sp := 0x0BFE }) (fun t =>
    bytesAt t 0x0800 [0x0B] && bytesAt t 0x0801 [0xFE] && t.pc == 0x4003 && t.ccr == 0b11010000) = true := by decide +kernel

theorem test_T130_leax : answers (step { placed [(0x4000, [0x1A, 0x04])] with x := 0xFFFE }) (fun t =>
    t.x == 0x0002 && t.pc == 0x4002 && t.ccr == 0b11010000) = true := by decide +kernel

theorem test_T131_leay : answers (step { placed [(0x4000, [0x19, 0xF6])] with a := 0x01, b := 0x00, sp := 0x0B00 }) (fun t =>
    t.y == 0x0C00 && t.pc == 0x4002 && t.ccr == 0b11010000) = true := by decide +kernel

theorem test_T132_leas : answers (step { placed [(0x4000, [0x1B, 0xA1])] with sp := 0x0B00 }) (fun t =>
    t.sp == 0x0B02 && t.pc == 0x4002 && t.ccr == 0b11010000) = true := by decide +kernel

theorem test_T136_abx : answers (step { placed [(0x4000, [0x1A, 0xE5])] with b := 0x02, x := 0xFFFF }) (fun t =>
    t.x == 0x0001 && t.pc == 0x4002 && t.ccr == 0b11010000) = true := by decide +kernel

theorem test_T137_aby : answers (step { placed [(0x4000, [0x19, 0xED])] with b := 0x80, y := 0x0100 }) (fun t =>
    t.y == 0x0180 && t.pc == 0x4002 && t.ccr == 0b11010000) = true := by decide +kernel

theorem test_T138_des : answers (step { placed [(0x4000, [0x1B, 0x9F])] with sp := 0x0000 }) (fun t =>
    t.sp == 0xFFFF && t.pc == 0x4002 && t.ccr == 0b11010000) = true := by decide +kernel

theorem test_T139_ins : answers (step { placed [(0x4000, [0x1B, 0x81])] with sp := 0xFFFF }) (fun t =>
    t.sp == 0x0000 && t.pc == 0x4002 && t.ccr == 0b11010000) = true := by decide +kernel

theorem test_T200_movb : answers (step { placed [(0x4000, [0x18, 0x0B, 0xAA, 0x10, 0x00])] with ccr := 0xDF }) (fun t =>
    bytesAt t 0x1000 [0xAA] && t.pc == 0x4005 && t.ccr == 0b11011111) = true := by decide +kernel

theorem test_T204_movw : answers (step { placed [(0x4000, [0x18, 0x00, 0x80, 0x12, 0x34])] with sp := 0x0BFE }) (fun t =>
    bytesAt t 0x0BFE [0x12] && bytesAt t 0x0BFF [0x34] && t.pc == 0x4005 && t.ccr == 0b11010000) = true := by decide +kernel

theorem test_T210_tfr : answers (step { placed [(0x4000, [0xB7, 0x01])] with a := 0x80, b := 0x01 }) (fun t =>
    t.b == 0x80 && t.pc == 0x4002 && t.ccr == 0b11010000) = true := by decide +kernel

theorem test_T213_sex : answers (step { placed [(0x4000, [0xB7, 0x14])] with a := 0x55, b := 0x7F }) (fun t =>
    t.a == 0x00 && t.pc == 0x4002 && t.ccr == 0b11010000) = true := by decide +kernel

theorem test_T216_tap : answers (step { placed [(0x4000, [0xB7, 0x02])] with a := 0xFF, ccr := 0x80 }) (fun t =>
    t.pc == 0x4002 && t.ccr == 0b10111111) = true := by decide +kernel

theorem test_T218_tpa : answers (step { placed [(0x4000, [0xB7, 0x20])] with ccr := 0xD5 }) (fun t =>
    t.a == 0xD5 && t.pc == 0x4002 && t.ccr == 0b11010101) = true := by decide +kernel

theorem test_T219_tsx : answers (step { placed [(0x4000, [0xB7, 0x75])] with sp := 0x0BF0 }) (fun t =>
    t.x == 0x0BF0 && t.pc == 0x4002 && t.ccr == 0b11010000) = true := by decide +kernel

theorem test_T220_txs : answers (step { placed [(0x4000, [0xB7, 0x57])] with x := 0x0C00 }) (fun t =>
    t.sp == 0x0C00 && t.pc == 0x4002 && t.ccr == 0b11010000) = true := by decide +kernel

theorem test_T221_xgdx : answers (step { placed [(0x4000, [0xB7, 0xC5])] with a := 0x12, b := 0x34, x := 0xABCD }) (fun t =>
    t.a == 0xAB && t.b == 0xCD && t.x == 0x1234 && t.pc == 0x4002 && t.ccr == 0b11010000) = true := by decide +kernel

theorem test_T222_exg : answers (step { placed [(0x4000, [0xB7, 0x81])] with a := 0x01, b := 0x02 }) (fun t =>
    t.a == 0x02 && t.b == 0x01 && t.pc == 0x4002 && t.ccr == 0b11010000) = true := by decide +kernel

theorem test_T226_tab : answers (step { placed [(0x4000, [0x18, 0x0E])] with a := 0x80, ccr := 0xD3 }) (fun t =>
    t.b == 0x80 && t.pc == 0x4002 && t.ccr == 0b11011001) = true := by decide +kernel

theorem test_T227_tba : answers (step { placed [(0x4000, [0x18, 0x0F])] with a := 0x55, b := 0x00 }) (fun t =>
    t.a == 0x00 && t.pc == 0x4002 && t.ccr == 0b11010100) = true := by decide +kernel

theorem test_T230_psha : answers (step { placed [(0x4000, [0x36])] with a := 0x5A, sp := 0x0C00 }) (fun t =>
    t.sp == 0x0BFF && bytesAt t 0x0BFF [0x5A] && t.pc == 0x4001 && t.ccr == 0b11010000) = true := by decide +kernel

theorem test_T231_pshd : answers (step { placed [(0x4000, [0x3B])] with a := 0x12, b := 0x34, sp := 0x0C00 }) (fun t =>
    t.sp == 0x0BFE && bytesAt t 0x0BFE [0x12] && bytesAt t 0x0BFF [0x34] && t.pc == 0x4001 && t.ccr == 0b11010000) = true := by decide +kernel

theorem test_T232_pshx : answers (step { placed [(0x4000, [0x34])] with x := 0xABCD, sp := 0x0001 }) (fun t =>
    t.sp == 0xFFFF && bytesAt t 0x0000 [0xCD] && bytesAt t 0xFFFF [0xAB] && t.pc == 0x4001 && t.ccr == 0b11010000) = true := by decide +kernel

theorem test_T233_pshc : answers (step { placed [(0x4000, [0x39])] with sp := 0x0C00, ccr := 0xD5 }) (fun t =>
    t.sp == 0x0BFF && bytesAt t 0x0BFF [0xD5] && t.pc == 0x4001 && t.ccr == 0b11010101) = true := by decide +kernel

theorem test_T234_pula : answers (step { placed [(0x4000, [0x32]), (0x0BFF, [0x80])] with sp := 0x0BFF, ccr := 0xD0 }) (fun t =>
    t.a == 0x80 && t.sp == 0x0C00 && t.pc == 0x4001 && t.ccr == 0b11010000) = true := by decide +kernel

theorem test_T235_puld : answers (step { placed [(0x4000, [0x3A]), (0x0BFE, [0x12, 0x34])] with sp := 0x0BFE }) (fun t =>
    t.a == 0x12 && t.b == 0x34 && t.sp == 0x0C00 && t.pc == 0x4001 && t.ccr == 0b11010000) = true := by decide +kernel

theorem test_T236_puly : answers (step { placed [(0x4000, [0x31]), (0xFFFF, [0xAA]), (0x0000, [0xBB])] with sp := 0xFFFF }) (fun t =>
    t.y == 0xAABB && t.sp == 0x0001 && t.pc == 0x4001 && t.ccr == 0b11010000) = true := by decide +kernel

theorem test_T237_pulc : answers (step { placed [(0x4000, [0x38]), (0x0BFF, [0xFF])] with sp := 0x0BFF, ccr := 0x90 }) (fun t =>
    t.sp == 0x0C00 && t.pc == 0x4001 && t.ccr == 0b10111111) = true := by decide +kernel

theorem test_T300_aba : answers (step { placed [(0x4000, [0x18, 0x06])] with a := 0x0F, b := 0x01 }) (fun t =>
    t.a == 0x10 && t.pc == 0x4002 && t.ccr == 0b11110000) = true := by decide +kernel

theorem test_T303_adda : answers (step { placed [(0x4000, [0x8B, 0x80])] with a := 0x80 }) (fun t =>
    t.a == 0x00 && t.pc == 0x4002 && t.ccr == 0b11010111) = true := by decide +kernel

theorem test_T304_adca : answers (step { placed [(0x4000, [0x89, 0x00])] with a := 0xFF, ccr := 0xD1 }) (fun t =>
    t.a == 0x00 && t.pc == 0x4002 && t.ccr == 0b11110101) = true := by decide +kernel

theorem test_T305_adcb : answers (step { placed [(0x4000, [0xD9, 0x10]), (0x0010, [0x00])] with b := 0x0F, ccr := 0xD1 }) (fun t =>
    t.b == 0x10 && t.pc == 0x4002 && t.ccr == 0b11110000) = true := by decide +kernel

theorem test_T306_addb : answers (step { placed [(0x4000, [0xEB, 0x30]), (0x1000, [0x22])] with b := 0x10, x := 0x1000 }) (fun t =>
    t.b == 0x32 && t.x == 0x1001 && t.pc == 0x4002 && t.ccr == 0b11010000) = true := by decide +kernel

theorem test_T307_addd : answers (step { placed [(0x4000, [0xC3, 0x00, 0x01])] with a := 0xFF, b := 0xFF, ccr := 0xF0 }) (fun t =>
    t.a == 0x00 && t.b == 0x00 && t.pc == 0x4003 && t.ccr == 0b11110101) = true := by decide +kernel

theorem test_T310_suba : answers (step { placed [(0x4000, [0x80, 0x01])] with a := 0x00 }) (fun t =>
    t.a == 0xFF && t.pc == 0x4002 && t.ccr == 0b11011001) = true := by decide +kernel

theorem test_T312_sbca : answers (step { placed [(0x4000, [0x82, 0x00])] with a := 0x00, ccr := 0xD1 }) (fun t =>
    t.a == 0xFF && t.pc == 0x4002 && t.ccr == 0b11011001) = true := by decide +kernel

theorem test_T313_subb : answers (step { placed [(0x4000, [0xC0, 0x10])] with b := 0x10 }) (fun t =>
    t.b == 0x00 && t.pc == 0x4002 && t.ccr == 0b11010100) = true := by decide +kernel

theorem test_T314_sba : answers (step { placed [(0x4000, [0x18, 0x16])] with a := 0x05, b := 0x06 }) (fun t =>
    t.a == 0xFF && t.pc == 0x4002 && t.ccr == 0b11011001) = true := by decide +kernel

theorem test_T315_subd : answers (step { placed [(0x4000, [0x83, 0x00, 0x01])] with a := 0x80, b := 0x00 }) (fun t =>
    t.a == 0x7F && t.b == 0xFF && t.pc == 0x4003 && t.ccr == 0b11010010) = true := by decide +kernel

theorem test_T316_sbcb : answers (step { placed [(0x4000, [0xC2, 0xFF])] with b := 0x00, ccr := 0xD1 }) (fun t =>
    t.pc == 0x4002 && t.ccr == 0b11010101) = true := by decide +kernel

theorem test_T320_cba : answers (step { placed [(0x4000, [0x18, 0x17])] with a := 0x10, b := 0x10 }) (fun t =>
    t.pc == 0x4002 && t.ccr == 0b11010100) = true := by decide +kernel

theorem test_T321_cmpa : answers (step { placed [(0x4000, [0x81, 0x80])] with a := 0x7F }) (fun t =>
    t.pc == 0x4002 && t.ccr == 0b11011011) = true := by decide +kernel

theorem test_T322_cmpb : answers (step { placed [(0x4000, [0xF1, 0x10, 0x00]), (0x1000, [0x02])] with b := 0x01 }) (fun t =>
    t.pc == 0x4003 && t.ccr == 0b11011001) = true := by decide +kernel

theorem test_T323_cpd : answers (step { placed [(0x4000, [0x8C, 0x80, 0x00])] with a := 0x7F, b := 0xFF }) (fun t =>
    t.pc == 0x4003 && t.ccr == 0b11011011) = true := by decide +kernel

theorem test_T324_cpx : answers (step { placed [(0x4000, [0x8E, 0x00, 0x00])] with x := 0x0000 }) (fun t =>
    t.pc == 0x4003 && t.ccr == 0b11010100) = true := by decide +kernel

theorem test_T325_cpy : answers (step { placed [(0x4000, [0xAD, 0x00]), (0x1000, [0x00, 0x02])] with x := 0x1000, y := 0x0001 }) (fun t =>
    t.pc == 0x4002 && t.ccr == 0b11011001) = true := by decide +kernel

theorem test_T326_cps : answers (step { placed [(0x4000, [0x8F, 0x0C, 0x00])] with sp := 0x0C01 }) (fun t =>
    t.pc == 0x4003 && t.ccr == 0b11010000) = true := by decide +kernel

theorem test_T327_tst : answers (step { placed [(0x4000, [0xF7, 0x10, 0x00]), (0x1000, [0x80])] with ccr := 0xD3 }) (fun t =>
    t.pc == 0x4003 && t.ccr == 0b11011000) = true := by decide +kernel

theorem test_T328_tsta : answers (step { placed [(0x4000, [0x97])] with a := 0x00, ccr := 0xD3 }) (fun t =>
    t.pc == 0x4001 && t.ccr == 0b11010100) = true := by decide +kernel

theorem test_T329_tstb : answers (step { placed [(0x4000, [0xD7])] with b := 0x7F, ccr := 0xDF }) (fun t =>
    t.pc == 0x4001 && t.ccr == 0b11010000) = true := by decide +kernel

theorem test_T330_daa : answers (step { placed [(0x4000, [0x18, 0x07])] with a := 0x41, ccr := 0xF0 }) (fun t =>
    t.a == 0x47 && t.pc == 0x4002) = true := by decide +kernel

theorem test_T340_inc : answers (step { placed [(0x4000, [0x72, 0x10, 0x00]), (0x1000, [0x7F])] with ccr := 0xD1 }) (fun t =>
    bytesAt t 0x1000 [0x80] && t.pc == 0x4003 && t.ccr == 0b11011011) = true := by decide +kernel

theorem test_T341_inca : answers (step { placed [(0x4000, [0x42])] with a := 0xFF }) (fun t =>
    t.a == 0x00 && t.pc == 0x4001 && t.ccr == 0b11010100) = true := by decide +kernel

theorem test_T342_incb : answers (step { placed [(0x4000, [0x52])] with b := 0x00 }) (fun t =>
    t.b == 0x01 && t.pc == 0x4001 && t.ccr == 0b11010000) = true := by decide +kernel

theorem test_T343_inx : answers (step { placed [(0x4000, [0x08])] with x := 0xFFFF }) (fun t =>
    t.x == 0x0000 && t.pc == 0x4001 && t.ccr == 0b11010100) = true := by decide +kernel

theorem test_T344_iny : answers (step { placed [(0x4000, [0x02])] with y := 0x7FFF, ccr := 0xDF }) (fun t =>
    t.y == 0x8000 && t.pc == 0x4001 && t.ccr == 0b11011011) = true := by decide +kernel

theorem test_T345_dec : answers (step { placed [(0x4000, [0x63, 0x00]), (0x1000, [0x80])] with x := 0x1000 }) (fun t =>
    bytesAt t 0x1000 [0x7F] && t.pc == 0x4002 && t.ccr == 0b11010010) = true := by decide +kernel

theorem test_T346_deca : answers (step { placed [(0x4000, [0x43])] with a := 0x00, ccr := 0xD0 }) (fun t =>
    t.a == 0xFF && t.pc == 0x4001 && t.ccr == 0b11011000) = true := by decide +kernel

theorem test_T347_decb : answers (step { placed [(0x4000, [0x53])] with b := 0x01 }) (fun t =>
    t.b == 0x00 && t.pc == 0x4001 && t.ccr == 0b11010100) = true := by decide +kernel

theorem test_T348_dex : answers (step { placed [(0x4000, [0x09])] with x := 0x0001 }) (fun t =>
    t.x == 0x0000 && t.pc == 0x4001 && t.ccr == 0b11010100) = true := by decide +kernel

theorem test_T349_dey : answers (step { placed [(0x4000, [0x03])] with y := 0x0000 }) (fun t =>
    t.y == 0xFFFF && t.pc == 0x4001 && t.ccr == 0b11010000) = true := by decide +kernel

theorem test_T350_neg : answers (step { placed [(0x4000, [0x60, 0xE0, 0x10]), (0x1010, [0x01])] with x := 0x1000 }) (fun t =>
    bytesAt t 0x1010 [0xFF] && t.pc == 0x4003 && t.ccr == 0b11011001) = true := by decide +kernel

theorem test_T351_nega : answers (step { placed [(0x4000, [0x40])] with a := 0x80 }) (fun t =>
    t.pc == 0x4001 && t.ccr == 0b11011011) = true := by decide +kernel

theorem test_T352_negb : answers (step { placed [(0x4000, [0x50])] with b := 0x00, ccr := 0xD1 }) (fun t =>
    t.pc == 0x4001 && t.ccr == 0b11010100) = true := by decide +kernel

theorem test_T400_anda : answers (step { placed [(0x4000, [0x84, 0x0F])] with a := 0xF0, ccr := 0xD3 }) (fun t =>
    t.a == 0x00 && t.pc == 0x4002 && t.ccr == 0b11010101) = true := by decide +kernel

theorem test_T401_andb : answers (step { placed [(0x4000, [0xD4, 0x10]), (0x0010, [0x80])] with b := 0xFF }) (fun t =>
    t.b == 0x80 && t.pc == 0x4002 && t.ccr == 0b11011000) = true := by decide +kernel

theorem test_T402_oraa : answers (step { placed [(0x4000, [0x8A, 0x80])] with a := 0x01 }) (fun t =>
    t.a == 0x81 && t.pc == 0x4002 && t.ccr == 0b11011000) = true := by decide +kernel

theorem test_T403_orab : answers (step { placed [(0x4000, [0xEA, 0x40]), (0x1000, [0x00])] with b := 0x00, y := 0x1000 }) (fun t =>
    t.pc == 0x4002 && t.ccr == 0b11010100) = true := by decide +kernel

theorem test_T404_eora : answers (step { placed [(0x4000, [0x88, 0xFF])] with a := 0xFF }) (fun t =>
    t.a == 0x00 && t.pc == 0x4002 && t.ccr == 0b11010100) = true := by decide +kernel

theorem test_T405_eorb : answers (step { placed [(0x4000, [0xC8, 0x01])] with b := 0x80 }) (fun t =>
    t.b == 0x81 && t.pc == 0x4002 && t.ccr == 0b11011000) = true := by decide +kernel

theorem test_T406_bita : answers (step { placed [(0x4000, [0x85, 0x80])] with a := 0x80 }) (fun t =>
    t.pc == 0x4002 && t.ccr == 0b11011000) = true := by decide +kernel

theorem test_T407_bitb : answers (step { placed [(0x4000, [0xC5, 0x01])] with b := 0xFE }) (fun t =>
    t.pc == 0x4002 && t.ccr == 0b11010100) = true := by decide +kernel

theorem test_T408_com : answers (step (placed [(0x4000, [0x71, 0x10, 0x00]), (0x1000, [0x00])])) (fun t =>
    bytesAt t 0x1000 [0xFF] && t.pc == 0x4003 && t.ccr == 0b11011001) = true := by decide +kernel

theorem test_T409_coma : answers (step { placed [(0x4000, [0x41])] with a := 0xFF }) (fun t =>
    t.a == 0x00 && t.pc == 0x4001 && t.ccr == 0b11010101) = true := by decide +kernel

theorem test_T410_comb : answers (step { placed [(0x4000, [0x51])] with b := 0x55 }) (fun t =>
    t.b == 0xAA && t.pc == 0x4001 && t.ccr == 0b11011001) = true := by decide +kernel

theorem test_T411_clr : answers (step { placed [(0x4000, [0x69, 0x30]), (0x1000, [0xFF])] with x := 0x1000, ccr := 0xDB }) (fun t =>
    t.x == 0x1001 && bytesAt t 0x1000 [0x00] && t.pc == 0x4002 && t.ccr == 0b11010100) = true := by decide +kernel

theorem test_T412_clra : answers (step { placed [(0x4000, [0x87])] with a := 0x99, ccr := 0xDB }) (fun t =>
    t.a == 0x00 && t.pc == 0x4001 && t.ccr == 0b11010100) = true := by decide +kernel

theorem test_T413_clrb : answers (step { placed [(0x4000, [0xC7])] with b := 0x01 }) (fun t =>
    t.b == 0x00 && t.pc == 0x4001 && t.ccr == 0b11010100) = true := by decide +kernel

theorem test_T414_andcc : answers (step { placed [(0x4000, [0x10, 0xAF])] with ccr := 0xD0 }) (fun t =>
    t.pc == 0x4002 && t.ccr == 0b10000000) = true := by decide +kernel

theorem test_T415_orcc : answers (step { placed [(0x4000, [0x14, 0x50])] with ccr := 0x80 }) (fun t =>
    t.pc == 0x4002 && t.ccr == 0b10010000) = true := by decide +kernel

theorem test_T416_clc : answers (step { placed [(0x4000, [0x10, 0xFE])] with ccr := 0xDF }) (fun t =>
    t.pc == 0x4002 && t.ccr == 0b11011110) = true := by decide +kernel

theorem test_T417_cli : answers (step { placed [(0x4000, [0x10, 0xEF])] with ccr := 0xD0 }) (fun t =>
    t.pc == 0x4002 && t.ccr == 0b11000000) = true := by decide +kernel

theorem test_T418_clv : answers (step { placed [(0x4000, [0x10, 0xFD])] with ccr := 0xD2 }) (fun t =>
    t.pc == 0x4002 && t.ccr == 0b11010000) = true := by decide +kernel

theorem test_T419_sec : answers (step (placed [(0x4000, [0x14, 0x01])])) (fun t =>
    t.pc == 0x4002 && t.ccr == 0b11010001) = true := by decide +kernel

theorem test_T420_sei : answers (step { placed [(0x4000, [0x14, 0x10])] with ccr := 0xC0 }) (fun t =>
    t.pc == 0x4002 && t.ccr == 0b11010000) = true := by decide +kernel

theorem test_T421_sev : answers (step (placed [(0x4000, [0x14, 0x02])])) (fun t =>
    t.pc == 0x4002 && t.ccr == 0b11010010) = true := by decide +kernel

theorem test_T422_bclr : answers (step (placed [(0x4000, [0x4D, 0x20, 0x0F]), (0x0020, [0xFF])])) (fun t =>
    bytesAt t 0x0020 [0xF0] && t.pc == 0x4003 && t.ccr == 0b11011000) = true := by decide +kernel

theorem test_T424_bset : answers (step { placed [(0x4000, [0x0C, 0x00, 0x80]), (0x1000, [0x01])] with x := 0x1000 }) (fun t =>
    bytesAt t 0x1000 [0x81] && t.pc == 0x4003 && t.ccr == 0b11011000) = true := by decide +kernel

theorem test_T430_asl : answers (step (placed [(0x4000, [0x78, 0x10, 0x00]), (0x1000, [0x80])])) (fun t =>
    bytesAt t 0x1000 [0x00] && t.pc == 0x4003 && t.ccr == 0b11010111) = true := by decide +kernel

theorem test_T431_asla : answers (step { placed [(0x4000, [0x48])] with a := 0x40 }) (fun t =>
    t.a == 0x80 && t.pc == 0x4001 && t.ccr == 0b11011010) = true := by decide +kernel

theorem test_T432_lslb : answers (step { placed [(0x4000, [0x58])] with b := 0xC0 }) (fun t =>
    t.b == 0x80 && t.pc == 0x4001 && t.ccr == 0b11011001) = true := by decide +kernel

theorem test_T433_asld : answers (step { placed [(0x4000, [0x59])] with a := 0x80, b := 0x01 }) (fun t =>
    t.a == 0x00 && t.b == 0x02 && t.pc == 0x4001 && t.ccr == 0b11010011) = true := by decide +kernel

theorem test_T434_asr : answers (step { placed [(0x4000, [0x67, 0x00]), (0x1000, [0x81])] with x := 0x1000 }) (fun t =>
    bytesAt t 0x1000 [0xC0] && t.pc == 0x4002 && t.ccr == 0b11011001) = true := by decide +kernel

theorem test_T435_asra : answers (step { placed [(0x4000, [0x47])] with a := 0x01 }) (fun t =>
    t.a == 0x00 && t.pc == 0x4001 && t.ccr == 0b11010111) = true := by decide +kernel

theorem test_T436_asrb : answers (step { placed [(0x4000, [0x57])] with b := 0xFE }) (fun t =>
    t.b == 0xFF && t.pc == 0x4001 && t.ccr == 0b11011010) = true := by decide +kernel

theorem test_T437_lsr : answers (step (placed [(0x4000, [0x74, 0x00, 0x10]), (0x0010, [0x01])])) (fun t =>
    bytesAt t 0x0010 [0x00] && t.pc == 0x4003 && t.ccr == 0b11010111) = true := by decide +kernel

theorem test_T438_lsra : answers (step { placed [(0x4000, [0x44])] with a := 0x80 }) (fun t =>
    t.a == 0x40 && t.pc == 0x4001 && t.ccr == 0b11010000) = true := by decide +kernel

theorem test_T439_lsrb : answers (step { placed [(0x4000, [0x54])] with b := 0xFF }) (fun t =>
    t.b == 0x7F && t.pc == 0x4001 && t.ccr == 0b11010011) = true := by decide +kernel

theorem test_T440_lsrd : answers (step { placed [(0x4000, [0x49])] with a := 0x00, b := 0x01 }) (fun t =>
    t.b == 0x00 && t.pc == 0x4001 && t.ccr == 0b11010111) = true := by decide +kernel

theorem test_T441_rol : answers (step { placed [(0x4000, [0x65, 0x40]), (0x1000, [0x80])] with y := 0x1000, ccr := 0xD1 }) (fun t =>
    bytesAt t 0x1000 [0x01] && t.pc == 0x4002 && t.ccr == 0b11010011) = true := by decide +kernel

theorem test_T442_rola : answers (step { placed [(0x4000, [0x45])] with a := 0x7F, ccr := 0xD0 }) (fun t =>
    t.a == 0xFE && t.pc == 0x4001 && t.ccr == 0b11011010) = true := by decide +kernel

theorem test_T443_rolb : answers (step { placed [(0x4000, [0x55])] with b := 0x00, ccr := 0xD1 }) (fun t =>
    t.b == 0x01 && t.pc == 0x4001 && t.ccr == 0b11010000) = true := by decide +kernel

theorem test_T444_ror : answers (step { placed [(0x4000, [0x76, 0x10, 0x00]), (0x1000, [0x00])] with ccr := 0xD1 }) (fun t =>
    bytesAt t 0x1000 [0x80] && t.pc == 0x4003 && t.ccr == 0b11011010) = true := by decide +kernel

theorem test_T445_rora : answers (step { placed [(0x4000, [0x46])] with a := 0x01, ccr := 0xD0 }) (fun t =>
    t.a == 0x00 && t.pc == 0x4001 && t.ccr == 0b11010111) = true := by decide +kernel

theorem test_T446_rorb : answers (step { placed [(0x4000, [0x56])] with b := 0x02, ccr := 0xD1 }) (fun t =>
    t.b == 0x81 && t.pc == 0x4001 && t.ccr == 0b11011010) = true := by decide +kernel

theorem test_T500_mul : answers (step { placed [(0x4000, [0x12])] with a := 0xFF, b := 0xFF }) (fun t =>
    t.a == 0xFE && t.b == 0x01 && t.pc == 0x4001 && t.ccr == 0b11010000) = true := by decide +kernel

theorem test_T503_emul : answers (step { placed [(0x4000, [0x13])] with a := 0xFF, b := 0xFF, y := 0xFFFF }) (fun t =>
    t.a == 0x00 && t.b == 0x01 && t.y == 0xFFFE && t.pc == 0x4001 && t.ccr == 0b11011000) = true := by decide +kernel

theorem test_T506_emuls : answers (step { placed [(0x4000, [0x18, 0x13])] with a := 0xFF, b := 0xFF, y := 0x0002 }) (fun t =>
    t.b == 0xFE && t.y == 0xFFFF && t.pc == 0x4002 && t.ccr == 0b11011001) = true := by decide +kernel

theorem test_T510_ediv : answers (step { placed [(0x4000, [0x11])] with a := 0x00, b := 0x00, x := 0x0002, y := 0x0001 }) (fun t =>
    t.y == 0x8000 && t.pc == 0x4001 && t.ccr == 0b11011000) = true := by decide +kernel

theorem test_T514_edivs : answers (step { placed [(0x4000, [0x18, 0x14])] with a := 0xFF, b := 0xF9, x := 0x0002, y := 0xFFFF }) (fun t =>
    t.b == 0xFF && t.y == 0xFFFD && t.pc == 0x4002 && t.ccr == 0b11011000) = true := by decide +kernel

theorem test_T517_fdiv : answers (step { placed [(0x4000, [0x18, 0x11])] with a := 0x00, b := 0x01, x := 0x0002 }) (fun t =>
    t.b == 0x00 && t.x == 0x8000 && t.pc == 0x4002 && t.ccr == 0b11010000) = true := by decide +kernel

theorem test_T521_idiv : answers (step { placed [(0x4000, [0x18, 0x10])] with a := 0x00, b := 0x07, x := 0x0002 }) (fun t =>
    t.b == 0x01 && t.x == 0x0003 && t.pc == 0x4002 && t.ccr == 0b11010000) = true := by decide +kernel

theorem test_T524_idivs : answers (step { placed [(0x4000, [0x18, 0x15])] with a := 0xFF, b := 0xF9, x := 0x0002 }) (fun t =>
    t.b == 0xFF && t.x == 0xFFFD && t.pc == 0x4002 && t.ccr == 0b11011000) = true := by decide +kernel

theorem test_T530_emacs : answers (step { placed [(0x4000, [0x18, 0x12, 0x10, 0x00]), (0x2000, [0x00, 0x02, 0x00, 0x03]), (0x1000, [0x00, 0x00, 0x00, 0x01])] with x := 0x2000, y := 0x2002 }) (fun t =>
    bytesAt t 0x1000 [0x00] && bytesAt t 0x1001 [0x00] && bytesAt t 0x1002 [0x00] && bytesAt t 0x1003 [0x07] && t.pc == 0x4004 && t.ccr == 0b11010000) = true := by decide +kernel

theorem test_T540_maxa : answers (step { placed [(0x4000, [0x18, 0x18, 0x00]), (0x1000, [0x20])] with a := 0x10, x := 0x1000 }) (fun t =>
    t.a == 0x20 && t.pc == 0x4003 && t.ccr == 0b11011001) = true := by decide +kernel

theorem test_T542_mina : answers (step { placed [(0x4000, [0x18, 0x19, 0x30]), (0x1000, [0x10])] with a := 0x20, x := 0x1000 }) (fun t =>
    t.a == 0x10 && t.x == 0x1001 && t.pc == 0x4003 && t.ccr == 0b11010000) = true := by decide +kernel

theorem test_T543_maxm : answers (step { placed [(0x4000, [0x18, 0x1C, 0x40]), (0x1000, [0x20])] with a := 0x30, y := 0x1000 }) (fun t =>
    bytesAt t 0x1000 [0x30] && t.pc == 0x4003 && t.ccr == 0b11010000) = true := by decide +kernel

theorem test_T544_minm : answers (step { placed [(0x4000, [0x18, 0x1D, 0x40]), (0x1000, [0x05])] with a := 0x05, y := 0x1000 }) (fun t =>
    bytesAt t 0x1000 [0x05] && t.pc == 0x4003 && t.ccr == 0b11010100) = true := by decide +kernel

theorem test_T545_emaxd : answers (step { placed [(0x4000, [0x18, 0x1A, 0x00]), (0x1000, [0x20, 0x00])] with a := 0x10, b := 0x00, x := 0x1000 }) (fun t =>
    t.a == 0x20 && t.pc == 0x4003 && t.ccr == 0b11011001) = true := by decide +kernel

theorem test_T546_emind : answers (step { placed [(0x4000, [0x18, 0x1B, 0xE2, 0x01, 0x00]), (0x1100, [0x00, 0x01])] with a := 0x00, b := 0x02, x := 0x1000 }) (fun t =>
    t.b == 0x01 && t.pc == 0x4005 && t.ccr == 0b11010000) = true := by decide +kernel

theorem test_T547_emaxm : answers (step { placed [(0x4000, [0x18, 0x1E, 0x00]), (0x1000, [0x7F, 0xFF])] with a := 0x80, b := 0x00, x := 0x1000 }) (fun t =>
    bytesAt t 0x1000 [0x80] && bytesAt t 0x1001 [0x00] && t.pc == 0x4003 && t.ccr == 0b11010010) = true := by decide +kernel

theorem test_T548_eminm : answers (step { placed [(0x4000, [0x18, 0x1F, 0xE7]), (0x1001, [0x20, 0x00]), (0x2000, [0xFF, 0xFF])] with a := 0x00, b := 0x01, x := 0x1000 }) (fun t =>
    bytesAt t 0x2000 [0x00] && bytesAt t 0x2001 [0x01] && t.pc == 0x4003 && t.ccr == 0b11010001) = true := by decide +kernel

theorem test_T550_tbl : answers (step { placed [(0x4000, [0x18, 0x3D, 0x00]), (0x1000, [0x10, 0x20])] with b := 0x80, x := 0x1000 }) (fun t =>
    t.a == 0x18 && t.pc == 0x4003 && t.ccr == 0b11010000) = true := by decide +kernel

theorem test_T555_etbl : answers (step { placed [(0x4000, [0x18, 0x3F, 0x40]), (0x1000, [0x10, 0x00, 0x20, 0x00])] with b := 0x80, y := 0x1000 }) (fun t =>
    t.a == 0x18 && t.b == 0x00 && t.pc == 0x4003 && t.ccr == 0b11010000) = true := by decide +kernel

theorem test_T600_bra : answers (step (placed [(0x4000, [0x20, 0x02])])) (fun t =>
    t.pc == 0x4004 && t.ccr == 0b11010000) = true := by decide +kernel

theorem test_T603_brn : answers (step (placed [(0x4000, [0x21, 0x7F])])) (fun t =>
    t.pc == 0x4002 && t.ccr == 0b11010000) = true := by decide +kernel

theorem test_T604_beq : answers (step { placed [(0x4000, [0x27, 0x10])] with ccr := 0xD4 }) (fun t =>
    t.pc == 0x4012 && t.ccr == 0b11010100) = true := by decide +kernel

theorem test_T606_bne : answers (step { placed [(0x4000, [0x26, 0x10])] with ccr := 0xD4 }) (fun t =>
    t.pc == 0x4002 && t.ccr == 0b11010100) = true := by decide +kernel

theorem test_T607_bcc : answers (step { placed [(0x4000, [0x24, 0x10])] with ccr := 0xD0 }) (fun t =>
    t.pc == 0x4012 && t.ccr == 0b11010000) = true := by decide +kernel

theorem test_T608_bcs : answers (step { placed [(0x4000, [0x25, 0x10])] with ccr := 0xD1 }) (fun t =>
    t.pc == 0x4012 && t.ccr == 0b11010001) = true := by decide +kernel

theorem test_T609_bhi : answers (step { placed [(0x4000, [0x22, 0x10])] with ccr := 0xD0 }) (fun t =>
    t.pc == 0x4012 && t.ccr == 0b11010000) = true := by decide +kernel

theorem test_T611_bls : answers (step { placed [(0x4000, [0x23, 0x10])] with ccr := 0xD1 }) (fun t =>
    t.pc == 0x4012 && t.ccr == 0b11010001) = true := by decide +kernel

theorem test_T612_bge : answers (step { placed [(0x4000, [0x2C, 0x10])] with ccr := 0xDA }) (fun t =>
    t.pc == 0x4012 && t.ccr == 0b11011010) = true := by decide +kernel

theorem test_T613_blt : answers (step { placed [(0x4000, [0x2D, 0x10])] with ccr := 0xD8 }) (fun t =>
    t.pc == 0x4012 && t.ccr == 0b11011000) = true := by decide +kernel

theorem test_T614_bgt : answers (step { placed [(0x4000, [0x2E, 0x10])] with ccr := 0xD4 }) (fun t =>
    t.pc == 0x4002 && t.ccr == 0b11010100) = true := by decide +kernel

theorem test_T615_ble : answers (step { placed [(0x4000, [0x2F, 0x10])] with ccr := 0xD2 }) (fun t =>
    t.pc == 0x4012 && t.ccr == 0b11010010) = true := by decide +kernel

theorem test_T616_bmi : answers (step { placed [(0x4000, [0x2B, 0x10])] with ccr := 0xD8 }) (fun t =>
    t.pc == 0x4012 && t.ccr == 0b11011000) = true := by decide +kernel

theorem test_T617_bpl : answers (step { placed [(0x4000, [0x2A, 0x10])] with ccr := 0xD8 }) (fun t =>
    t.pc == 0x4002 && t.ccr == 0b11011000) = true := by decide +kernel

theorem test_T618_bvs : answers (step { placed [(0x4000, [0x29, 0x10])] with ccr := 0xD2 }) (fun t =>
    t.pc == 0x4012 && t.ccr == 0b11010010) = true := by decide +kernel

theorem test_T619_bvc : answers (step { placed [(0x4000, [0x28, 0x10])] with ccr := 0xD2 }) (fun t =>
    t.pc == 0x4002 && t.ccr == 0b11010010) = true := by decide +kernel

theorem test_T620_lbra : answers (step (placed [(0x4000, [0x18, 0x20, 0x10, 0x00])])) (fun t =>
    t.pc == 0x5004 && t.ccr == 0b11010000) = true := by decide +kernel

theorem test_T622_lbeq : answers (step { placed [(0x4000, [0x18, 0x27, 0x10, 0x00])] with ccr := 0xD0 }) (fun t =>
    t.pc == 0x4004 && t.ccr == 0b11010000) = true := by decide +kernel

theorem test_T623_lbne : answers (step { placed [(0x4000, [0x18, 0x26, 0xC0, 0x00])] with ccr := 0xD0 }) (fun t =>
    t.pc == 0x0004 && t.ccr == 0b11010000) = true := by decide +kernel

theorem test_T624_lbrn : answers (step (placed [(0x4000, [0x18, 0x21, 0x12, 0x34])])) (fun t =>
    t.pc == 0x4004 && t.ccr == 0b11010000) = true := by decide +kernel

theorem test_T630_brclr : answers (step (placed [(0x4000, [0x4F, 0x20, 0x81, 0x05]), (0x0020, [0x7E])])) (fun t =>
    t.pc == 0x4009 && t.ccr == 0b11010000) = true := by decide +kernel

theorem test_T633_brset : answers (step (placed [(0x4000, [0x1E, 0x10, 0x00, 0x81, 0xFB]), (0x1000, [0xC3])])) (fun t =>
    t.pc == 0x4000 && t.ccr == 0b11010000) = true := by decide +kernel

theorem test_T640_dbne : answers (step { placed [(0x4000, [0x04, 0x31, 0xFA])] with b := 0x02 }) (fun t =>
    t.b == 0x01 && t.pc == 0x3FFD && t.ccr == 0b11010000) = true := by decide +kernel

theorem test_T643_dbeq : answers (step { placed [(0x4000, [0x04, 0x05, 0x05])] with x := 0x0001 }) (fun t =>
    t.x == 0x0000 && t.pc == 0x4008 && t.ccr == 0b11010000) = true := by decide +kernel

theorem test_T644_ibne : answers (step { placed [(0x4000, [0x04, 0xB0, 0x00])] with a := 0x00 }) (fun t =>
    t.a == 0x01 && t.pc == 0x3F03 && t.ccr == 0b11010000) = true := by decide +kernel

theorem test_T645_ibeq : answers (step { placed [(0x4000, [0x04, 0x84, 0x04])] with a := 0xFF, b := 0xFF }) (fun t =>
    t.a == 0x00 && t.b == 0x00 && t.pc == 0x4007 && t.ccr == 0b11010000) = true := by decide +kernel

theorem test_T646_tbeq : answers (step { placed [(0x4000, [0x04, 0x44, 0x10])] with a := 0x00, b := 0x00 }) (fun t =>
    t.pc == 0x4013 && t.ccr == 0b11010000) = true := by decide +kernel

theorem test_T647_tbne : answers (step { placed [(0x4000, [0x04, 0x67, 0x02])] with sp := 0x0000 }) (fun t =>
    t.pc == 0x4003 && t.ccr == 0b11010000) = true := by decide +kernel

theorem test_T650_jmp : answers (step (placed [(0x4000, [0x06, 0xC0, 0x00])])) (fun t =>
    t.pc == 0xC000 && t.ccr == 0b11010000) = true := by decide +kernel

theorem test_T653_jsr : answers (step { placed [(0x4000, [0x16, 0xC0, 0x00])] with sp := 0x0C00 }) (fun t =>
    t.sp == 0x0BFE && bytesAt t 0x0BFE [0x40] && bytesAt t 0x0BFF [0x03] && t.pc == 0xC000 && t.ccr == 0b11010000) = true := by decide +kernel

theorem test_T656_bsr : answers (step { placed [(0x4000, [0x07, 0xFE])] with sp := 0x0C00 }) (fun t =>
    t.sp == 0x0BFE && bytesAt t 0x0BFE [0x40] && bytesAt t 0x0BFF [0x02] && t.pc == 0x4000 && t.ccr == 0b11010000) = true := by decide +kernel

theorem test_T657_rts : answers (step { placed [(0x4000, [0x3D]), (0x0BFE, [0x40, 0x03])] with sp := 0x0BFE }) (fun t =>
    t.sp == 0x0C00 && t.pc == 0x4003 && t.ccr == 0b11010000) = true := by decide +kernel

theorem test_T658_call : answers (step { placed [(0x4000, [0x4A, 0x80, 0x00, 0x05])] with sp := 0x0C00, ppage := 0x02 }) (fun t =>
    t.sp == 0x0BFD && t.ppage == 0x05 && bytesAt t 0x0BFD [0x02] && bytesAt t 0x0BFE [0x40] && bytesAt t 0x0BFF [0x04] && t.pc == 0x8000 && t.ccr == 0b11010000) = true := by decide +kernel

theorem test_T661_rtc : answers (step { placed [(0x4000, [0x0A]), (0x0BFD, [0x02, 0x40, 0x04])] with sp := 0x0BFD, ppage := 0x05 }) (fun t =>
    t.sp == 0x0C00 && t.ppage == 0x02 && t.pc == 0x4004 && t.ccr == 0b11010000) = true := by decide +kernel

theorem test_T700_mem : answers (step { placed [(0x4000, [0x01]), (0x2000, [0x20, 0x80, 0x04, 0x08])] with a := 0x40, x := 0x2000, y := 0x1000 }) (fun t =>
    t.x == 0x2004 && t.y == 0x1001 && bytesAt t 0x1000 [0x80] && t.pc == 0x4001) = true := by decide +kernel

theorem test_T710_rev : answers (step { placed [(0x4000, [0x18, 0x3A]), (0x2000, [0x00, 0x01, 0xFE, 0x04, 0xFE, 0x02, 0xFE, 0x05, 0xFF]), (0x1000, [0x40, 0x80, 0xC0, 0x00, 0x00, 0x10])] with a := 0xFF, x := 0x2000, y := 0x1000 }) (fun t =>
    t.a == 0xC0 && t.x == 0x2009 && bytesAt t 0x1004 [0x40] && bytesAt t 0x1005 [0xC0] && t.pc == 0x4002) = true := by decide +kernel

theorem test_T713_revw : answers (step { placed [(0x4000, [0x18, 0x3B]), (0x2000, [0x10, 0x00, 0xFF, 0xFE, 0x10, 0x04, 0xFF, 0xFF]), (0x1000, [0x80, 0x00, 0x00, 0x00, 0x00]), (0x3000, [0x7F])] with a := 0xFF, x := 0x2000, y := 0x3000, ccr := 0xD1 }) (fun t =>
    t.a == 0x40 && t.x == 0x2008 && t.y == 0x3001 && bytesAt t 0x1004 [0x40] && t.pc == 0x4002) = true := by decide +kernel

theorem test_T720_wav : answers (step { placed [(0x4000, [0x18, 0x3C]), (0x1000, [0x10, 0x20]), (0x1100, [0x02, 0x03])] with b := 0x02, x := 0x1000, y := 0x1100 }) (fun t =>
    t.b == 0x80 && t.x == 0x0005 && t.y == 0x0000 && t.pc == 0x4002) = true := by decide +kernel

theorem test_T723_wavr : answers (step { placed [(0x4000, [0x3C]), (0x1001, [0x20]), (0x1101, [0x03]), (0x0BF0, [0x00, 0x02, 0x00, 0x00, 0x00, 0x20])] with b := 0x01, x := 0x1001, y := 0x1101, sp := 0x0BF0 }) (fun t =>
    t.b == 0x80 && t.x == 0x0005 && t.y == 0x0000 && t.sp == 0x0BF6 && t.pc == 0x4001) = true := by decide +kernel

theorem test_T800_swi : answers (step { placed [(0x4000, [0x3F]), (0xFFF6, [0xE0, 0x00])] with a := 0x01, b := 0x02, x := 0x3344, y := 0x5566, sp := 0x0C00, ccr := 0xC0 }) (fun t =>
    t.sp == 0x0BF7 && bytesAt t 0x0BF7 [0xC0] && bytesAt t 0x0BF8 [0x02] && bytesAt t 0x0BF9 [0x01] && bytesAt t 0x0BFA [0x33] && bytesAt t 0x0BFB [0x44] && bytesAt t 0x0BFC [0x55] && bytesAt t 0x0BFD [0x66] && bytesAt t 0x0BFE [0x40] && bytesAt t 0x0BFF [0x01] && t.pc == 0xE000 && t.ccr == 0b11010000) = true := by decide +kernel

theorem test_T801_trap : answers (step { placed [(0x4000, [0x18, 0x30]), (0xFFF8, [0xE1, 0x00])] with a := 0x01, b := 0x02, x := 0x3344, y := 0x5566, sp := 0x0C00, ccr := 0xC0 }) (fun t =>
    t.sp == 0x0BF7 && bytesAt t 0x0BF7 [0xC0] && bytesAt t 0x0BF8 [0x02] && bytesAt t 0x0BF9 [0x01] && bytesAt t 0x0BFA [0x33] && bytesAt t 0x0BFB [0x44] && bytesAt t 0x0BFC [0x55] && bytesAt t 0x0BFD [0x66] && bytesAt t 0x0BFE [0x40] && bytesAt t 0x0BFF [0x02] && t.pc == 0xE100 && t.ccr == 0b11010000) = true := by decide +kernel

theorem test_T803_rti : answers (step { placed [(0x4000, [0x0B]), (0x0BF7, [0xC0, 0x02, 0x01, 0x33, 0x44, 0x55, 0x66, 0x40, 0x01])] with sp := 0x0BF7, ccr := 0xD0 }) (fun t =>
    t.a == 0x01 && t.b == 0x02 && t.x == 0x3344 && t.y == 0x5566 && t.sp == 0x0C00 && t.pc == 0x4001 && t.ccr == 0b11000000) = true := by decide +kernel

theorem test_T805_nop : answers (step { placed [(0x4000, [0xA7])] with ccr := 0xDF }) (fun t =>
    t.pc == 0x4001 && t.ccr == 0b11011111) = true := by decide +kernel

theorem test_T806_wai : answers (step { placed [(0x4000, [0x3E])] with a := 0x01, b := 0x02, x := 0x3344, y := 0x5566, sp := 0x0C00, ccr := 0xC0 }) (fun t =>
    t.sp == 0x0BF7 && bytesAt t 0x0BF7 [0xC0] && bytesAt t 0x0BF8 [0x02] && bytesAt t 0x0BF9 [0x01] && bytesAt t 0x0BFA [0x33] && bytesAt t 0x0BFB [0x44] && bytesAt t 0x0BFC [0x55] && bytesAt t 0x0BFD [0x66] && bytesAt t 0x0BFE [0x40] && bytesAt t 0x0BFF [0x01] && t.pc == 0x4001 && t.runState == .waiting && t.ccr == 0b11000000) = true := by decide +kernel

theorem test_T807_stop : answers (step { placed [(0x4000, [0x18, 0x3E])] with sp := 0x0C00, ccr := 0xD0 }) (fun t =>
    t.pc == 0x4002 && t.ccr == 0b11010000) = true := by decide +kernel

theorem test_T809_bgnd : answers (step { placed [(0x4000, [0x00])] with cfg := withDebug }) (fun t =>
    t.pc == 0x4001 && t.runState == .background && t.ccr == 0b11010000) = true := by decide +kernel

/-- The word the host stores is what the next step runs: LDAA #$80. -/
theorem test_reset_fetch_word : answers (step (State.reset.withFetchWord 16 0x8086))
    (fun t => t.a == 0x80 && t.pc == 2 && t.ccr == 0xD8) = true := by decide +kernel

/-! ## Witnesses: a concrete case for the hypotheses of each statement -/

/-- The first lines of a state for the witnesses: X and Y point at plain bytes, SP has room below. -/
def plainState : State := { placed [(0x1000, [0x20, 0x80, 0x10, 0x08])] with x := 0x1000, y := 0x2000, sp := 0x0C00 }

/-- All of the default memory map is plain RAM. -/
theorem allPlain_default {s : State} (h : s.cfg = defaultConfig) : s.allPlain := by
  intro a
  rw [State.plain_congr (s := State.reset) h]
  rfl

theorem test_hyp_DecodeOfEncode : (Instr.trap 0x39).wf = true ∧ (Instr.movb (.imm 1) (.ext 2)).wf = true := by decide

theorem test_hyp_EncodeOfDecode :
    decode [0xA7, 0x01] = .ok .nop [0x01] ∧ 6 ≤ ([0x18, 0x03, 0, 0, 0, 0] : List Byte).length := by decide

theorem test_hyp_StepKeepsInvariant : answers (step plainState) (fun t => t.cfg == plainState.cfg) = true ∧
    Inv plainState := ⟨by decide +kernel, by decide +kernel, .inl rfl, by decide, by decide, by decide⟩

/-- A running state whose next sampling point shows these requests, with X and I as `ccr` has them. -/
def seeing (ccr : Byte) (r : Requests) : State := { plainState with ccr := ccr, requests := [r] }

theorem test_hyp_SoftwareNeverSetsX :
    (∀ r ∈ (seeing 0x80 { noRequests with irq := true }).requests, r.noReset ∧ r.xirq = false) ∧
    getFlag (seeing 0x80 { noRequests with irq := true }).ccr .xm = false ∧
    answers (step (seeing 0x80 { noRequests with irq := true })) (fun t => t.sp == 0x0BF7) = true := by
  refine ⟨?_, by decide +kernel, by decide +kernel⟩
  simp [seeing, Requests.noReset, noRequests]

theorem test_hyp_OnlyCallAndRtcChangePpage : plainState.cfg.ppageAddr = none ∧ plainState.requests = [] ∧
    (∀ c, Instr.nop ≠ .call c) ∧ Instr.nop ≠ .rtc ∧ exec .nop plainState = .next (plainState.advance .nop) :=
  ⟨rfl, rfl, by simp, by simp, rfl⟩

theorem test_hyp_StepRunsTheDecodedInstruction : plainState.runState = .running ∧ plainState.progress = none ∧
    plainState.sample.2.eventOf plainState.sample.1 = none ∧ plainState.sample.1.cutBy = none ∧
    decode plainState.sample.2.fetch.1 = .ok .bgnd [0, 0, 0, 0, 0] ∧
    decode (placed [(0x4000, [0x1A, 0xE7])]).sample.2.fetch.1 = .bad .reservedIndexed ∧
    ({ plainState with progress := some .rev } : State).sample.2.eventOf plainState.sample.1 = none := by decide +kernel

/-- A six-byte instruction at an odd address, so that its last byte lies in the fourth word. -/
def oddMove : State := { placed [(0x3FFF, encode (.movw (.ext 0x1000) (.ext 0x2000)))] with pc := 0x3FFF }

theorem test_hyp_StepRunsTheBytesAtPc : (Instr.movw (.ext 0x1000) (.ext 0x2000)).wf = true ∧
    oddMove.requests = [] ∧ oddMove.stale = [] ∧ (∀ c ∈ oddMove.queue, c.1 < 65536) ∧
    (∀ k < 8, oddMove.plain (oddMove.queueBase + BitVec.ofNat 16 k) = true) ∧
    oddMove.holds 0x3FFF (encode (.movw (.ext 0x1000) (.ext 0x2000))) ∧
    answers (step oddMove) (fun t => t.pc == 0x4005 && (t.queue.map Prod.fst).head? == some 0x4004) = true :=
  ⟨rfl, rfl, rfl, by decide, by decide, ⟨by decide +kernel, rfl, by decide +kernel, rfl, by decide +kernel, rfl,
    by decide +kernel, rfl, by decide +kernel, rfl, by decide +kernel, rfl, trivial⟩, by decide +kernel⟩

theorem test_hyp_StaleBytesAndTheirRefill : plainState.staleValues 0x1000 = [] ∧ plainState.writable 0x1000 = true ∧
    ({ plainState with stale := [(0x1000, 3)] } : State).staleValues 0x1000 = [3] ∧ plainState.queue = [] ∧
    (∀ k < 6, plainState.plain (plainState.queueBase + BitVec.ofNat 16 k) = true) ∧ plainState.requests = [] ∧
    answers (exec (.bsr 0x10) plainState) (fun t => t.stale == [(0x0BFF, 0), (0x0BFE, 0)]) = true := by decide +kernel

/-- The queue holds the second word at PC, as memory held it before it was stored to. -/
def oldWord : State := { plainState with queue := [(0x4002, 0xAA), (0x4003, 0xBB)] }

theorem test_hyp_StaleBytesAndTheirRefill_kept : oldWord.queueBase = 0x4000 ∧ oldWord.queued 0x4002 = some 0xAA ∧
    oldWord.queued 0x4003 = some 0xBB ∧ oldWord.peek 0x4002 ≠ 0xAA ∧ oldWord.queued 0x4000 = none ∧
    oldWord.queued 0x4004 = none ∧ oldWord.plain 0x4004 = true ∧ oldWord.plain 0x4005 = true ∧
    oldWord.readAhead.queued 0x4002 = some 0xAA ∧ oldWord.readAhead.queued 0x4000 = some (oldWord.peek 0x4000) := by
  decide +kernel

theorem test_hyp_InterruptsOfARunningCpu : (seeing 0x80 { noRequests with xirq := true, irq := true }).takes
      { noRequests with xirq := true, irq := true } 0xFFF4 true ∧
    (seeing 0x80 { noRequests with irq := true }).takes { noRequests with irq := true } 0xFFF2 false ∧
    (seeing 0xC0 { noRequests with xirq := true, sources := [56, 3] }).takes
      { noRequests with xirq := true, sources := [56, 3] } 0xFFEA false ∧
    (seeing 0xD0 { noRequests with xirq := true, irq := true }).takesNone { noRequests with xirq := true, irq := true } ∧
    (seeing 0x90 { noRequests with irq := true }).takesNone { noRequests with irq := true } ∧
    (seeing 0x80 { noRequests with sources := [57] }).takesNone { noRequests with sources := [57] } ∧
    ({ noRequests with irq := true } : Requests).noReset := by
  refine ⟨.inl (by decide), .inr ⟨.inl rfl, by decide, rfl, .inl (by decide)⟩,
    .inr ⟨.inr (by decide), by decide, rfl, .inr ⟨rfl, 3, ?_, by decide +kernel, ?_⟩⟩,
    ⟨.inr (by decide), .inl (by decide)⟩, ⟨.inl rfl, .inl (by decide)⟩, ⟨.inl rfl, .inr ⟨rfl, ?_⟩⟩, ⟨rfl, rfl, rfl, rfl⟩⟩
  · exact ⟨by decide, by decide⟩
  · simp only [State.sees]
    decide
  · intro k h
    have : k = 57 := by simpa [State.sees] using h.1
    subst this
    decide +kernel

theorem test_hyp_ResetIsTakenFromEveryRunState :
    plainState.resetBy { noRequests with pinReset := true, cop := true } 0xFFFE ∧
    plainState.resetBy { noRequests with clockMonitor := true, cop := true } 0xFFFC ∧
    plainState.resetBy { noRequests with cop := true, irq := true } 0xFFFA ∧ plainState.cfg.ppageAddr = none ∧
    Memory.wf plainState.mem = true ∧ plainState.writable 0x2003 = true ∧
    (∀ k < 6, plainState.plain (0xFFFA + BitVec.ofNat 16 k) = true) :=
  ⟨⟨rfl, .inl ⟨rfl, rfl⟩⟩, ⟨rfl, .inr (.inl ⟨rfl, rfl, rfl⟩)⟩, ⟨rfl, .inr (.inr ⟨rfl, rfl, rfl, rfl⟩)⟩, rfl,
    by decide +kernel, by decide +kernel, by decide +kernel⟩

/-- STAA $5000 at PC, and a COP reset that arrives while it runs. -/
def cutStaa : State := { placed [(0x4000, [0x7A, 0x50, 0x00]), (0x4FFF, [1, 2, 3])] with
  requests := [{ noRequests with cutBy := some .cop }] }

/-- The work that the reset cuts off. -/
def cutWork : Work × State := State.work { cutStaa with requests := [] } { noRequests with cutBy := some .cop }

/-- A reset in the middle of STAA $5000: the one byte it might have stored to is free (70_reset_and_hazards.md R611,
U19). -/
theorem test_reset_in_the_middle : cutWork.2.mayStore cutWork.1 = [0x5000] ∧
    answers (step cutStaa) (fun t => t.runState == .running && t.requests == [] && t.stale == []) = true := by
  decide +kernel

theorem test_hyp_ResetInTheMiddle : cutStaa.requests = [{ noRequests with cutBy := some .cop }] ∧
    (∀ e, cutWork.2.forgetStores.perform cutWork.1 ≠ .refused e) ∧ cutStaa.cfg.ppageAddr = none ∧
    Memory.wf cutStaa.mem = true ∧ cutStaa.plain 0xFFFA = true := by
  refine ⟨rfl, fun e h => ?_, rfl, by decide +kernel, rfl⟩
  have : refuses (cutWork.2.forgetStores.perform cutWork.1) = false := by decide +kernel
  rw [h] at this
  exact absurd this (by simp [refuses])

theorem test_hyp_SuspendedStatesEnd :
    ({ seeing 0x80 { noRequests with irq := true } with runState := .waiting } : State).takes
      { noRequests with irq := true } 0xFFF2 false ∧
    ({ seeing 0xC0 { noRequests with xirq := true } with runState := .stopped } : State).takesNone
      { noRequests with xirq := true } ∧
    ({ seeing 0x80 { noRequests with sources := [0] } with runState := .stopped } : State).takesNone
      { noRequests with sources := [0] } ∧
    plainState.plain 0xFFF2 = true ∧ plainState.plain 0xFFF3 = true ∧
    ({ plainState with runState := .background } : State).sample.1.noReset := by
  refine ⟨.inr ⟨.inl rfl, by decide, rfl, .inl (by decide)⟩, ⟨.inr (by decide), .inr ⟨rfl, ?_⟩⟩,
    ⟨.inl rfl, .inr ⟨rfl, ?_⟩⟩, by decide, by decide, ⟨rfl, rfl, rfl, rfl⟩⟩
  · intro k h
    exact absurd h.1 (by simp [noRequests])
  · intro k h
    exact absurd (h.2 rfl) (by simp [seeing, plainState, placed, State.reset, defaultConfig])

theorem test_hyp_OperandsAndAddresses : plainState.plain 0x0000 = true ∧ plainState.plain 0x00FF = true ∧
    plainState.plain 0xFFFF = true ∧ plainState.plain (0xFFFF + 1) = true ∧
    ((8 : Int) = if (7#4).toNat < 8 then ((7#4).toNat : Int) + 1 else ((7#4).toNat : Int) - 16) ∧
    ((-8 : Int) = if (8#4).toNat < 8 then ((8#4).toNat : Int) + 1 else ((8#4).toNat : Int) - 16) := by decide

theorem test_hyp_StoredWordReadsBack : Memory.wf plainState.mem = true ∧ plainState.writable 0xFFFF = true ∧
    plainState.writable (0xFFFF + 1) = true ∧ answers (exec (.std (.ext 0xFFFF)) plainState) (fun t =>
      answers (exec (.ldx (.mem (.ext 0xFFFF))) t) fun u => u.x == plainState.d) = true := by decide +kernel

theorem test_hyp_LoadEffectiveAddress : leaPostOwn (.short (.post .x 3)) .x = true ∧
    leaPostOwn (.short (.post .x 3)) .y = false ∧ leaPostOwn (.short (.pre .x 3)) .x = false := by decide

theorem test_hyp_MemoryMoves :
    ({ plainState with cfg := { defaultConfig with variant := .m68hc12 } } : State).cfg.variant = .m68hc12 ∧
    source8UsesPc (.idx (.const5 .pc 1)) = true ∧ destUsesPc (.idx (.acc .pc .d)) = true ∧
    source16UsesPc (.idx (.pre .x 1)) = false ∧ plainState.cfg.variant = .hcs12 := by decide

theorem test_hyp_StackPrimitives : Memory.wf plainState.mem = true ∧ plainState.plain 0x0C00 = true ∧
    plainState.writable (plainState.sp - 1) = true := by decide +kernel

theorem test_hyp_DecimalAdjust : ({ plainState with a := 0x99 } : State).a = bcd 99 ∧
    answers (exec (.adda (.imm (bcd 99))) { plainState with a := 0x99 }) (fun t => t.a == 0x32) = true := by
  decide +kernel

theorem test_hyp_ExtendedDivisions :
    (0x0001#16 ≠ 0 ∧ 65536 * (0x0001#16).toNat ≤ (0x0001#16 ++ 0x0000#16).toNat) ∧
    ((0x0000#16 ++ 0xFFFF#16).toNat < 65536 * (0x0001#16).toNat) ∧
    (32767 < ((0x0000#16 ++ 0x8000#16).toInt).tdiv (0x0001#16).toInt) ∧
    (-32768 ≤ ((0xFFFF#16 ++ 0x8000#16).toInt).tdiv (0x0001#16).toInt ∧
      ((0x0000#16 ++ 0x7FFF#16).toInt).tdiv (0x0001#16).toInt ≤ 32767) := by decide

theorem test_hyp_ShortDivisions : (0x0000#16).toNat < (0x0001#16).toNat ∧ (0x0001#16).toNat ≤ (0x0001#16).toNat ∧
    (0x8000#16).toInt = -32768 ∧ (0xFFFF#16).toInt = -1 ∧ ¬((0x8001#16).toInt = -32768 ∧ (0xFFFF#16).toInt = -1) := by
  decide

theorem test_hyp_TableInterpolation : plainState.cfg.variant = .hcs12 := by decide

theorem test_hyp_BitBranches : (∀ k < 8, (0x00#8).getLsbD k = true → (0xFF#8).getLsbD k = false) ∧
    (∀ k < 8, (0x81#8).getLsbD k = true → (0xC1#8).getLsbD k = true) ∧
    (∃ k < 8, (0x80#8).getLsbD k = true ∧ (0x80#8).getLsbD k = true) ∧
    (∃ k < 8, (0x01#8).getLsbD k = true ∧ (0xFE#8).getLsbD k = false) := by decide

theorem test_hyp_CallsInExpandedMemory : Memory.wf plainState.mem = true ∧ plainState.cfg.ppageAddr ≠ some 0x0BFD ∧
    plainState.plain 0xFFFE = true ∧ plainState.plain (0xFFFE + 1) = true ∧ plainState.plain (0xFFFE + 2) = true ∧
    plainState.cfg.ppageAddr = none ∧ plainState.plain (plainState.sp + 1) = true := by decide +kernel

theorem test_hyp_CallsReturn : Memory.wf plainState.mem = true ∧ plainState.writable (plainState.sp - 3) = true ∧
    plainState.writable (plainState.sp - 2) = true ∧ plainState.writable (plainState.sp - 1) = true ∧
    answers (exec (.jsr (.ext 0x5000)) plainState) (fun t => answers (exec .rts t) fun u => u.pc == 0x4003) = true ∧
    answers (exec (.bsr 0x10) plainState) (fun t => answers (exec .rts t) fun u => u.pc == 0x4002) = true ∧
    answers (exec (.call (.ext 0x5000 9)) plainState) (fun t => answers (exec .rtc t) fun u => u.pc == 0x4004) = true := by
  decide +kernel

theorem test_hyp_MembershipGrade : ∀ k < 4, plainState.plain (plainState.x + BitVec.ofNat 16 k) = true := by decide

/-- A rule list at X, the operands at Y and after it. -/
def rules (list : List Byte) : State :=
  { placed [(0x1000, list), (0x2000, [0x30, 0x20, 0x10])] with x := 0x1000, y := 0x2000, a := 0xFF, ccr := 0xD0 }

theorem test_hyp_RuleEvaluation : (rules [1, 2, 0xFF]).allPlain ∧ (rules [1, 2, 0xFF]).requests = [] ∧
    getFlag (rules [1, 2, 0xFF]).ccr .v = false ∧ (∀ o ∈ ([1, 2] : List Byte), o ≠ 0xFE ∧ o ≠ 0xFF) ∧
    ([1, 2] : List Byte).length < 256 ∧ (rules [1, 2, 0xFF]).holds 0x1000 ([1, 2] ++ [0xFF]) ∧
    Memory.wf (rules [0xFE, 2, 0xFF]).mem = true ∧ (rules [0xFE, 2, 0xFF]).holds 0x1000 [0xFE, 2, 0xFF] ∧
    (0x2002 : Word) ≠ 0x1000 ∧ (0x2002 : Word) ≠ 0x1000 + 1 ∧ (0x2002 : Word) ≠ 0x1000 + 2 :=
  ⟨allPlain_default rfl, rfl, rfl, by decide, by decide, ⟨by decide +kernel, rfl, by decide +kernel, rfl, by decide +kernel, rfl, trivial⟩,
    by decide +kernel, ⟨by decide +kernel, rfl, by decide +kernel, rfl, by decide +kernel, rfl, trivial⟩, by decide, by decide, by decide⟩

theorem test_hyp_WeightedRuleEvaluation : (rules [0x20, 1, 0xFF, 0xFE, 0x20, 2, 0xFF, 0xFF]).allPlain ∧
    Memory.wf (rules [0x20, 1, 0xFF, 0xFE, 0x20, 2, 0xFF, 0xFF]).mem = true ∧
    getFlag (rules [0x20, 1, 0xFF, 0xFE, 0x20, 2, 0xFF, 0xFF]).ccr .v = false ∧
    bytesAt (rules [0x20, 1, 0xFF, 0xFE, 0x20, 2, 0xFF, 0xFF]) 0x1000 [0x20, 1, 0xFF, 0xFE, 0x20, 2, 0xFF, 0xFF] = true ∧
    (∀ k < 8, (0x2002 : Word) ≠ 0x1000 + BitVec.ofNat 16 k) :=
  ⟨allPlain_default rfl, by decide +kernel, rfl, by decide +kernel, by decide⟩

theorem test_hyp_WeightedAverageSums : ({ plainState with b := 1 } : State).allPlain ∧
    ({ plainState with b := 1 } : State).requests = [] ∧ ({ plainState with b := 1 } : State).b ≠ 0 ∧
    plainState.b = 0 := ⟨allPlain_default rfl, rfl, by decide, rfl⟩

/-- Bytes that stand in plain memory are held there. -/
theorem holds_of_bytesAt {s : State} (hp : s.allPlain) (l : List Byte) (a : Word) (h : bytesAt s a l = true) :
    s.holds a l := by
  induction l generalizing a with
  | nil => trivial
  | cons b rest ih =>
    simp only [bytesAt, Bool.and_eq_true, beq_iff_eq] at h
    exact ⟨h.1, hp a, ih (a + 1) h.2⟩

/-- Stores that are known avoid what none of them names. -/
theorem avoids_of {r : RuleRun} {l : List (Word × Byte)} {a : Word} {n : Nat} (h : r.stores = l)
    (hd : (l.all fun c => (List.range n).all fun k => c.1 != a + BitVec.ofNat 16 k) = true) : r.avoids a n := by
  unfold RuleRun.avoids
  rw [h]
  simp only [List.all_eq_true, List.mem_range, bne_iff_ne] at hd
  exact hd

/-- Two rules of one input and one output each. -/
def twoRules : List Byte := [1, 0xFE, 3, 0xFE, 2, 0xFE, 4]

theorem test_hyp_RuleEvaluation_rules : (∀ o ∈ twoRules, o ≠ 0xFF) ∧ twoRules.length < 256 ∧
    (rules (twoRules ++ [0xFF])).holds 0x1000 (twoRules ++ [0xFF]) ∧
    ((rules (twoRules ++ [0xFF])).revRun twoRules).avoids 0x1000 8 :=
  ⟨by decide, by decide, holds_of_bytesAt (allPlain_default rfl) _ _ (by decide +kernel),
    avoids_of (l := [(0x2004, 0x10), (0x2003, 0x20)]) (by decide +kernel) (by decide +kernel)⟩

/-- The same rules, with an IRQ seen after the fourth element. -/
def rulesInterrupted : State :=
  { rules twoRules with ccr := 0xC0, requests := List.replicate 3 noRequests ++ [{ noRequests with irq := true }] }

theorem test_hyp_RuleEvaluation_interrupted : rulesInterrupted.allPlain ∧ Memory.wf rulesInterrupted.mem = true ∧
    rulesInterrupted.runState = .running ∧ rulesInterrupted.holds 0x1000 [1, 0xFE, 3, 0xFE] ∧
    (rulesInterrupted.revRun [1, 0xFE, 3, 0xFE]).avoids 0x1000 4 ∧
    rulesInterrupted.takes { noRequests with irq := true } 0xFFF2 false ∧
    answers (exec .rev rulesInterrupted) (fun t => t.x == 0x1004 && t.a == 0xFF && bytesAt t 0x2003 [0x20]) = true :=
  ⟨allPlain_default rfl, by decide +kernel, rfl, holds_of_bytesAt (allPlain_default rfl) _ _ (by decide +kernel),
    avoids_of (l := [(0x2003, 0x20)]) (by decide +kernel) (by decide +kernel), .inr ⟨.inl rfl, by decide, rfl, .inl ⟨rfl, rfl⟩⟩,
    by decide +kernel⟩

/-- The same rules, with a COP reset seen there: the output stored before it is lost (70_reset_and_hazards.md R611, U19). -/
def rulesAbandoned : State :=
  { rules twoRules with requests := List.replicate 3 noRequests ++ [{ noRequests with cop := true }] }

theorem test_hyp_RuleEvaluation_abandoned : rulesAbandoned.allPlain ∧ Memory.wf rulesAbandoned.mem = true ∧
    rulesAbandoned.holds 0x1000 [1, 0xFE, 3, 0xFE] ∧ (rulesAbandoned.revRun [1, 0xFE, 3, 0xFE]).avoids 0x1000 4 ∧
    (rulesAbandoned.revRun [1, 0xFE, 3, 0xFE]).stores.map Prod.fst = [0x2003] ∧
    rulesAbandoned.resetBy { noRequests with cop := true } 0xFFFA ∧
    answers (exec .rev rulesAbandoned) (fun t => t.requests == [] && t.ruleStores == []) = true :=
  ⟨allPlain_default rfl, by decide +kernel, holds_of_bytesAt (allPlain_default rfl) _ _ (by decide +kernel),
    avoids_of (l := [(0x2003, 0x20)]) (by decide +kernel) (by decide +kernel), by decide +kernel,
    ⟨rfl, .inr (.inr ⟨rfl, rfl, rfl, rfl⟩)⟩, by decide +kernel⟩

/-- Memory of zeros: a rule list without an end mark. -/
def endless : State := { State.reset with x := 0x1000, y := 0x2000 }

/-- Zeros stand everywhere in it. -/
theorem endless_holds (n : Nat) (a : Word) : endless.holds a (List.replicate n 0) := by
  induction n generalizing a with
  | zero => trivial
  | succ n ih => exact ⟨rfl, rfl, ih (a + 1)⟩

/-- Inputs store nothing. -/
theorem endless_stores (n : Nat) (r : RuleRun) (h : r.v = false) :
    ((List.replicate n 0).foldl endless.revStep r).stores = r.stores ∧
      ((List.replicate n 0).foldl endless.revwStep r).stores = r.stores := by
  induction n generalizing r with
  | zero => exact ⟨rfl, rfl⟩
  | succ n ih =>
    simp only [List.replicate_succ, List.foldl_cons]
    have hb : ∀ ea, (endless.ruleByte r ea).v = false ∧ (endless.ruleByte r ea).stores = r.stores := fun ea => by
      simp [State.ruleByte, h]
    have h1 : endless.revStep r 0 = endless.ruleByte r (endless.y + (0 : Byte).zeroExtend 16) := by simp [State.revStep]
    have h2 : endless.revwStep r 0 = endless.ruleByte r 0 := by simp [State.revwStep]
    rw [h1, h2]
    exact ⟨(ih _ (hb _).1).1.trans (hb _).2, (ih _ (hb _).1).2.trans (hb _).2⟩

/-- Words of zeros are bytes of zeros. -/
theorem ruleWordBytes_zeros (n : Nat) : ruleWordBytes (List.replicate n 0) = List.replicate (2 * n) 0 := by
  induction n with
  | zero => rfl
  | succ n ih =>
    change 0 :: 0 :: ruleWordBytes (List.replicate n 0) = _
    rw [ih]
    rfl

theorem test_hyp_RuleEvaluation_unfinished : endless.allPlain ∧ Memory.wf endless.mem = true ∧ endless.requests = [] ∧
    (∀ n, ∀ o ∈ List.replicate n (0 : Byte), o ≠ 0xFF) ∧ endless.holds endless.x (List.replicate 256 0) ∧
    (endless.revRun (List.replicate 256 0)).avoids endless.x 256 ∧
    endless.holds endless.x (ruleWordBytes (List.replicate 256 0)) ∧
    (endless.revwRun (List.replicate 256 0)).avoids endless.x 512 :=
  ⟨allPlain_default rfl, rfl, rfl, fun n o ho => by rw [List.eq_of_mem_replicate ho]; decide, endless_holds _ _, avoids_of (l := []) (endless_stores 256 _ rfl).1 (by simp),
    ruleWordBytes_zeros 256 ▸ endless_holds 512 _, avoids_of (l := []) (endless_stores 256 _ rfl).2 (by simp)⟩

/-- A weighted rule of one input and one output, from 16-bit addresses. -/
def oneRule : List Word := [0x2001, 0xFFFE, 0x2002]

/-- That rule at X, its weight FF taken from the list's own third byte, with an XIRQ seen after its second element. -/
def weightedInterrupted : State :=
  { rules (ruleWordBytes (oneRule ++ [0xFFFF])) with
    y := 0x1002, ccr := 0x91, requests := [noRequests, { noRequests with xirq := true }] }

theorem test_hyp_WeightedRuleEvaluation_rules : (∀ e ∈ oneRule, e ≠ 0xFFFF) ∧
    weightedInterrupted.holds 0x1000 (ruleWordBytes (oneRule ++ [0xFFFF])) ∧
    (weightedInterrupted.revwRun oneRule).avoids 0x1000 8 ∧ weightedInterrupted.holds 0x1000 (ruleWordBytes [0x2001, 0xFFFE]) ∧
    (weightedInterrupted.revwRun [0x2001, 0xFFFE]).avoids 0x1000 4 ∧
    weightedInterrupted.takes { noRequests with xirq := true } 0xFFF4 true :=
  ⟨by simp [oneRule], holds_of_bytesAt (allPlain_default rfl) _ _ (by decide +kernel),
    avoids_of (l := [(0x2002, 0x20)]) (by decide +kernel) (by decide +kernel),
    holds_of_bytesAt (allPlain_default rfl) _ _ (by decide +kernel), avoids_of (l := []) (by decide +kernel) (by decide +kernel),
    .inl ⟨rfl, by decide +kernel, rfl, rfl⟩⟩

/-- The rule whole, with an external reset seen after its last element. -/
def weightedAbandoned : State :=
  { weightedInterrupted with requests := List.replicate 2 noRequests ++ [{ noRequests with pinReset := true }] }

theorem test_hyp_WeightedRuleEvaluation_abandoned : weightedAbandoned.allPlain ∧
    Memory.wf weightedAbandoned.mem = true ∧ weightedAbandoned.holds 0x1000 (ruleWordBytes oneRule) ∧
    (weightedAbandoned.revwRun oneRule).avoids 0x1000 6 ∧
    weightedAbandoned.resetBy { noRequests with pinReset := true } 0xFFFE :=
  ⟨allPlain_default rfl, by decide +kernel, holds_of_bytesAt (allPlain_default rfl) _ _ (by decide +kernel),
    avoids_of (l := [(0x2002, 0x20)]) (by decide +kernel) (by decide +kernel), ⟨rfl, .inl ⟨rfl, rfl⟩⟩⟩

/-- Three elements, with an IRQ seen at the check of the second. -/
def sumsInterrupted : State :=
  { rules [7, 8, 9] with b := 3, sp := 0x0C00, ccr := 0xC0, requests := [noRequests, { noRequests with irq := true }] }

theorem test_hyp_WeightedAverageSums_interrupted : sumsInterrupted.allPlain ∧ Memory.wf sumsInterrupted.mem = true ∧
    sumsInterrupted.runState = .running ∧ 1 < sumsInterrupted.b.toNat ∧
    sumsInterrupted.requests = List.replicate 1 noRequests ++ { noRequests with irq := true } :: [] ∧
    sumsInterrupted.takes { noRequests with irq := true } 0xFFF2 false ∧
    answers (exec .wav sumsInterrupted) (fun t => t.b == 2 && t.x == 0x1001 && t.y == 0x2001 && t.sp == 0x0BF1 &&
      bytesAt t 0x0BFA [0, 0x30, 0, 0, 1, 0x50] && bytesAt t 0x0BF8 [0x40, 0x01]) = true :=
  ⟨allPlain_default rfl, by decide +kernel, rfl, by decide, rfl, .inr ⟨.inl rfl, by decide, rfl, .inl ⟨rfl, rfl⟩⟩,
    by decide +kernel⟩

theorem test_hyp_SoftwareExceptions : plainState.runState = .running := rfl

theorem test_hyp_ReturnFromInterrupt : ∀ k < 9, plainState.plain (plainState.sp + BitVec.ofNat 16 k) = true := by decide

theorem test_hyp_RtiUndoesSwi : plainState.runState = .running ∧ Memory.wf plainState.mem = true ∧
    plainState.frameWritable (plainState.sp - 9) ∧
    answers (exec .swi plainState) (fun t => answers (exec .rti t) fun u => u.pc == 0x4001) = true :=
  ⟨rfl, by decide +kernel, by unfold State.frameWritable; decide, by decide +kernel⟩

theorem test_hyp_WaitStopAndBackground : getFlag plainState.ccr .s = true ∧
    getFlag ({ plainState with ccr := 0x50 } : State).ccr .s = false ∧ plainState.cfg.bdmEnabled = false ∧
    ({ plainState with cfg := withDebug } : State).cfg.bdmEnabled = true := by decide

end Sys2Proof.Tests
end

section
/-!
SUPPORT. A word stored and read again, and what is pulled after a push: the round trips through memory on which loads
after stores and returns after calls rest (00_scope.md R9, R10; 20_memory.md R82).
-/

namespace Sys2Proof.Machine

/-! ## Words and their two bytes -/

/-- The two bytes of a word, high one first, are the word (20_memory.md R82). -/
theorem word_of_bytes (v : Word) : v.extractLsb' 8 8 ++ v.extractLsb' 0 8 = v := by
  rw [BitVec.extractLsb'_append_extractLsb'_eq_extractLsb' (by decide), BitVec.extractLsb'_eq_self]

/-- The high byte of D is A (10_state.md R22). -/
@[simp] theorem State.d_high (s : State) : s.d.extractLsb' 8 8 = s.a := BitVec.extractLsb'_append_eq_left

/-- The low byte of D is B (10_state.md R22). -/
@[simp] theorem State.d_low (s : State) : s.d.extractLsb' 0 8 = s.b := BitVec.extractLsb'_append_eq_right

/-- An address is not the next one, also at the wrap from $FFFF to $0000. -/
theorem word_ne_succ (a : Word) : a ≠ a + 1 := by bv_omega

/-- The second byte of a word pushed lies one below the old SP. -/
theorem sub_two_add_one (a : Word) : a - 2 + 1 = a - 1 := by bv_omega

/-- A byte pushed after a word lies three below the old SP. -/
theorem sub_two_sub_one (a : Word) : a - 2 - 1 = a - 3 := by bv_omega

/-! ## A word in memory -/

/-- The latest store decides what its address holds. -/
theorem State.overlay_cons_same {s : State} {a : Word} (ha : s.writable a = true) (v : Byte)
    (earlier : List (Word × Byte)) : s.overlay ((a, v) :: earlier) a = v := if_pos ⟨rfl, ha⟩

/-- A store decides nothing at any other address. -/
theorem State.overlay_cons_other {s : State} {a x : Word} (hx : x ≠ a) (v : Byte) (earlier : List (Word × Byte)) :
    s.overlay ((a, v) :: earlier) x = s.overlay earlier x := if_neg fun h => hx h.1

/-- The high byte of a stored word lies at its address (20_memory.md R82). -/
theorem State.peek_write16_high {s : State} {a : Word} (hm : Memory.wf s.mem = true) (ha : s.writable a = true)
    (v : Word) : (s.write16 a v).peek a = v.extractLsb' 8 8 := by
  rw [State.peek_write16 hm, wordStores, State.overlay_cons_other (word_ne_succ a), State.overlay_cons_same ha]

/-- The low byte of a stored word lies at the next address, which is $0000 after $FFFF (20_memory.md R86). -/
theorem State.peek_write16_low {s : State} {a : Word} (hm : Memory.wf s.mem = true) (ha : s.writable (a + 1) = true)
    (v : Word) : (s.write16 a v).peek (a + 1) = v.extractLsb' 0 8 := by
  rw [State.peek_write16 hm, wordStores, State.overlay_cons_same ha]

/-- A stored word is the word at its address. -/
theorem State.peek16_write16 {s : State} {a : Word} (hm : Memory.wf s.mem = true) (ha : s.writable a = true)
    (ha' : s.writable (a + 1) = true) (v : Word) : (s.write16 a v).peek16 a = v := by
  rw [State.peek16, State.peek_write16_high hm ha, State.peek_write16_low hm ha', word_of_bytes]

/-- The word at an address depends on what its two bytes hold. -/
theorem State.peek16_congr {s t : State} {a : Word} (h : t.peek a = s.peek a) (h' : t.peek (a + 1) = s.peek (a + 1)) :
    t.peek16 a = s.peek16 a := by
  rw [State.peek16, State.peek16, h, h']

/-- Where PPAGE is at no address, what an address holds depends on memory and the parameters alone. -/
theorem State.peek_congr_of_unmapped {s t : State} (hn : s.cfg.ppageAddr = none) (hm : t.mem = s.mem)
    (hc : t.cfg = s.cfg) (x : Word) : t.peek x = s.peek x := by
  simp [State.peek, hm, hc, hn]

/-- What one state can write, another with the same parameters can read back. -/
theorem State.plain_of_writable_congr {s t : State} (hc : t.cfg = s.cfg) {x : Word} (h : s.writable x = true) :
    t.plain x = true := by
  rw [State.plain_congr hc, State.plain_of_writable h]

/-! ## Pushes and pulls -/

/-- A byte pushed lies at the new SP. -/
theorem State.peek_push8_top {s : State} (hm : Memory.wf s.mem = true) (h : s.writable (s.sp - 1) = true) (v : Byte) :
    (s.push8 v).peek (s.sp - 1) = v := by
  rw [State.peek_push8 hm, State.overlay_cons_same h]

/-- A byte pushed leaves every other address as it is. -/
theorem State.peek_push8_other {s : State} (hm : Memory.wf s.mem = true) (v : Byte) {x : Word} (hx : x ≠ s.sp - 1) :
    (s.push8 v).peek x = s.peek x := by
  rw [State.peek_push8 hm, State.overlay_cons_other hx, State.overlay]

/-- A word pushed is the word at the new SP. -/
theorem State.peek16_push16_top {s : State} (hm : Memory.wf s.mem = true) (h : s.writable (s.sp - 2) = true)
    (h' : s.writable (s.sp - 1) = true) (v : Word) : (s.push16 v).peek16 (s.sp - 2) = v :=
  State.peek16_write16 (s := { s with sp := s.sp - 2 }) hm h (by rwa [sub_two_add_one]) v

/-- `Pull8` where SP can be read back answers the byte there. -/
theorem State.pull8_fst_plain {s : State} (h : s.plain s.sp = true) : s.pull8.1 = s.peek s.sp := by
  rw [State.pull8, State.read8_plain h]

/-- `Pull16` where the two bytes at SP can be read back answers the word there. -/
theorem State.pull16_fst_plain {s : State} (h : s.plain s.sp = true) (h' : s.plain (s.sp + 1) = true) :
    s.pull16.1 = s.peek16 s.sp := by
  rw [State.pull16, State.read16_plain h h']

/-- A byte pushed is pulled back (00_scope.md R10). -/
theorem State.pull8_push8 {s : State} (hm : Memory.wf s.mem = true) (h : s.writable (s.sp - 1) = true) (v : Byte) :
    (s.push8 v).pull8.1 = v := by
  have hp : (s.push8 v).plain (s.push8 v).sp = true := by
    rw [State.push8_sp, State.plain_of_writable_congr (s.push8_cfg v) h]
  rw [State.pull8_fst_plain hp, State.push8_sp, State.peek_push8_top hm h]

end Sys2Proof.Machine
end

section
/-!
PROOFS. A word that STD stores is the word that LDX loads, and the stack primitives do what 00_scope.md R10 says.
-/

namespace Sys2Proof.Machine

/-- STD stores the two bytes of D at its address and changes nothing else but flags and an automatic base (R170). -/
theorem exec_std_effect {m : MemOperand} {s t : State} (h : exec (.std m) s = .next t) :
    let p := (s.advance (.std m)).eaMem m
    Effect s t (memAuto m) [.n, .z, .v] (wordStores p.1 p.2.d) := by
  obtain rfl := Host.Outcome.next.inj h
  exact (s.effect_advance (.std m) _ _).after rfl ((s.advance (.std m)).effect_store16 m State.d)

/-- LDX from an extended address loads the word there, where it can be read back (40_load_store_lea.md R166). -/
theorem exec_ldx_ext {a : Word} {s u : State} (ha : s.plain a = true) (ha' : s.plain (a + 1) = true)
    (h : exec (.ldx (.mem (.ext a))) s = .next u) : u.x = s.peek16 a := by
  obtain rfl := Host.Outcome.next.inj h
  exact congrArg Prod.fst (State.read16_plain (s := s.advance (.ldx (.mem (.ext a)))) ha ha')

/-- Settles O18: STD puts A at the address and B after it, and LDX reads the two bytes back. -/
theorem storedWordReadsBack : Obligations.StoredWordReadsBack := by
  unfold Obligations.StoredWordReadsBack
  intro s t u a hm ha ha' hstd hldx
  have heff : Effect s t [] [.n, .z, .v] (wordStores a s.d) := exec_std_effect hstd
  have hpeek (x : Word) : t.peek x = (s.write16 a s.d).peek x :=
    (heff.memory (.inr hm) x).trans (State.peek_write16 hm a s.d x).symm
  have hplain {b : Word} (hb : s.writable b = true) : t.plain b = true := State.plain_of_writable_congr heff.config hb
  refine ⟨?_, ?_, ?_⟩
  · rw [exec_ldx_ext (hplain ha) (hplain ha') hldx, State.peek16_congr (hpeek _) (hpeek _),
      State.peek16_write16 hm ha ha']
  · rw [hpeek, State.peek_write16_high hm ha, State.d_high]
  · rw [hpeek, State.peek_write16_low hm ha', State.d_low]

/-- Settles O25, each primitive by its own law. -/
theorem stackPrimitives : Obligations.StackPrimitives := by
  unfold Obligations.StackPrimitives
  refine ⟨fun s v => ⟨s.push8_sp v, State.peek_push8 (v := v)⟩, fun s v => ⟨s.push16_sp v, (State.peek_push16 · v)⟩,
    fun s => ⟨s.pull8_sp, rfl, s.pull8_mem⟩, fun s => ⟨s.pull16_sp, rfl, s.pull16_mem⟩,
    fun s a h => ?_, fun s a h h' => ?_, fun s v hm h => ⟨State.pull8_push8 hm h v, ?_⟩⟩
  · rw [State.read8_plain h]
  · rw [State.read16_plain h h']
  · rw [State.pull8_sp, State.push8_sp, BitVec.sub_add_cancel]

end Sys2Proof.Machine
end

section
/-!
PROOFS. Subroutine calls and their returns (45_branch_jump_call.md R496 to R500): a return finds on the stack what the
call put there.
-/

namespace Sys2Proof.Machine

/-! ## RTS -/

/-- RTS where the two bytes at SP can be read back: PC is the word there, and SP is two up (R498). -/
theorem exec_rts_plain {t u : State} (h : t.plain t.sp = true) (h' : t.plain (t.sp + 1) = true)
    (hx : exec .rts t = .next u) : u.pc = t.peek16 t.sp ∧ u.sp = t.sp + 2 := by
  obtain rfl := Host.Outcome.next.inj hx
  exact ⟨State.pull16_fst_plain (s := t.advance .rts) h h', State.pull16_sp (t.advance .rts)⟩

/-- RTS right after the call sequence of JSR and BSR undoes it (R496, R498). -/
theorem exec_rts_callTo {c u : State} {target : Word} (hm : Memory.wf c.mem = true)
    (h : c.writable (c.sp - 2) = true) (h' : c.writable (c.sp - 1) = true)
    (hx : exec .rts (c.callTo target) = .next u) : u.pc = c.pc ∧ u.sp = c.sp := by
  have hsp : (c.callTo target).sp = c.sp - 2 := by simp [State.callTo]
  have hcfg : (c.callTo target).cfg = c.cfg := by simp [State.callTo]
  have hword : (c.callTo target).peek16 (c.sp - 2) = c.pc := State.peek16_push16_top (s := c.refill) hm h h' c.pc
  have hplain {b : Word} (hb : c.writable b = true) : (c.callTo target).plain b = true :=
    State.plain_of_writable_congr hcfg hb
  obtain ⟨hpc, hup⟩ := exec_rts_plain (by rw [hsp, hplain h]) (by rw [hsp, sub_two_add_one, hplain h']) hx
  rw [hpc, hup, hsp, hword]
  exact ⟨rfl, BitVec.sub_add_cancel _ _⟩

/-! ## RTC -/

/-- RTC takes PPAGE from the top of the stack, then PC from the same memory with SP one up, and leaves SP three up
(R500). -/
theorem exec_rtc_pulls {t u : State} (hx : exec .rtc t = .next u) :
    u.ppage = (t.advance .rtc).pull8.1 ∧ u.sp = t.sp + 3 ∧
      ∃ r : State, r.mem = t.mem ∧ r.cfg = t.cfg ∧ r.sp = t.sp + 1 ∧ u.pc = r.pull16.1 := by
  obtain rfl := Host.Outcome.next.inj hx
  refine ⟨?_, ?_, { (t.advance .rtc).pull8.2 with ppage := (t.advance .rtc).pull8.1 }, ?_, ?_, ?_, rfl⟩
  · simp
  · simp [BitVec.add_assoc]
  · simp
  · simp
  · simp

/-- RTC where PPAGE is at no address and the three bytes at SP can be read back: PPAGE is the byte there, PC the word
after it, and SP is three up (R500). -/
theorem exec_rtc_plain {t u : State} (hn : t.cfg.ppageAddr = none) (h : t.plain t.sp = true)
    (h' : t.plain (t.sp + 1) = true) (h'' : t.plain (t.sp + 1 + 1) = true) (hx : exec .rtc t = .next u) :
    u.ppage = t.peek t.sp ∧ u.pc = t.peek16 (t.sp + 1) ∧ u.sp = t.sp + 3 := by
  obtain ⟨hpage, hsp, r, hrm, hrc, hrsp, hpc⟩ := exec_rtc_pulls hx
  have hpeek : ∀ x, r.peek x = t.peek x := State.peek_congr_of_unmapped hn hrm hrc
  refine ⟨hpage.trans (State.pull8_fst_plain (s := t.advance .rtc) h), ?_, hsp⟩
  rw [hpc, State.pull16_fst_plain (by rw [State.plain_congr hrc, hrsp, h']) (by rw [State.plain_congr hrc, hrsp, h'']),
    hrsp, State.peek16_congr (hpeek _) (hpeek _)]

/-- What CALL stacks: the return address and below it the old page (R499). -/
def State.callStack (c : State) : State := (c.refill.push16 c.pc).push8 c.ppage

@[simp] theorem State.callStack_sp (c : State) : c.callStack.sp = c.sp - 3 := by
  simp only [State.callStack, State.push8_sp, State.push16_sp, State.refill_sp, sub_two_sub_one]

@[simp] theorem State.callStack_cfg (c : State) : c.callStack.cfg = c.cfg := by simp [State.callStack]

/-- The page lies on top of what CALL stacks. -/
theorem State.peek_callStack {c : State} (hm : Memory.wf c.mem = true) (h : c.writable (c.sp - 3) = true) :
    c.callStack.peek (c.sp - 3) = c.ppage := by
  have htop : (c.refill.push16 c.pc).sp - 1 = c.sp - 3 := by rw [State.push16_sp, State.refill_sp, sub_two_sub_one]
  rw [State.callStack, ← htop]
  refine State.peek_push8_top (State.wf_push16 (s := c.refill) hm c.pc) ?_ c.ppage
  rw [htop, State.writable_congr (by simp : (c.refill.push16 c.pc).cfg = c.cfg), h]

/-- The return address lies under it. -/
theorem State.peek16_callStack {c : State} (hm : Memory.wf c.mem = true) (h : c.writable (c.sp - 2) = true)
    (h' : c.writable (c.sp - 1) = true) : c.callStack.peek16 (c.sp - 2) = c.pc := by
  have hother {x : Word} (hx : x ≠ c.sp - 3) : c.callStack.peek x = (c.refill.push16 c.pc).peek x := by
    refine State.peek_push8_other (State.wf_push16 (s := c.refill) hm c.pc) c.ppage ?_
    rwa [State.push16_sp, State.refill_sp, sub_two_sub_one]
  have hhigh := hother (x := c.sp - 2) (by bv_omega)
  have hlow := hother (x := c.sp - 2 + 1) (by bv_omega)
  rw [State.peek16_congr hhigh hlow]
  exact State.peek16_push16_top (s := c.refill) hm h h' c.pc

/-- CALL leaves the memory, the parameters and the SP of `State.callStack` (R499). -/
theorem exec_call_leaves {ct : CallTarget} {s t : State} (h : exec (.call ct) s = .next t) :
    let c := ((s.advance (.call ct)).callTarget ct).2.2
    t.mem = c.callStack.mem ∧ t.cfg = c.callStack.cfg ∧ t.sp = c.callStack.sp := by
  obtain rfl := Host.Outcome.next.inj h
  exact ⟨rfl, rfl, rfl⟩

/-- RTC from a state with the memory and SP that CALL left undoes what CALL stacked, where PPAGE is at no address
(R499, R500). -/
theorem exec_rtc_callStack {c t u : State} (hm : Memory.wf c.mem = true) (hn : c.cfg.ppageAddr = none)
    (h3 : c.writable (c.sp - 3) = true) (h2 : c.writable (c.sp - 2) = true) (h1 : c.writable (c.sp - 1) = true)
    (htm : t.mem = c.callStack.mem) (htc : t.cfg = c.callStack.cfg) (htsp : t.sp = c.callStack.sp)
    (hx : exec .rtc t = .next u) : u.pc = c.pc ∧ u.sp = c.sp ∧ u.ppage = c.ppage := by
  rw [State.callStack_sp] at htsp
  have hcfg : t.cfg = c.cfg := htc.trans c.callStack_cfg
  have hplain {b : Word} (hb : c.writable b = true) : t.plain b = true := State.plain_of_writable_congr hcfg hb
  have hpeek : ∀ x, t.peek x = c.callStack.peek x :=
    State.peek_congr_of_unmapped (by rwa [State.callStack_cfg]) htm htc
  have e2 : c.sp - 3 + 1 = c.sp - 2 := by bv_omega
  obtain ⟨hpage, hpc, hsp⟩ := exec_rtc_plain (by rwa [hcfg]) (by rw [htsp, hplain h3])
    (by rw [htsp, e2, hplain h2]) (by rw [htsp, e2, sub_two_add_one, hplain h1]) hx
  refine ⟨?_, ?_, ?_⟩
  · rw [hpc, htsp, e2, State.peek16_congr (hpeek _) (hpeek _), State.peek16_callStack hm h2 h1]
  · rw [hsp, htsp, BitVec.sub_add_cancel]
  · rw [hpage, htsp, hpeek, State.peek_callStack hm h3]

/-! ## The obligation -/

/-- Settles O51: each return finds on the stack what its call put there. -/
theorem callsReturn : Obligations.CallsReturn := by
  unfold Obligations.CallsReturn
  refine ⟨?jsr, ?bsr, ?call⟩
  case jsr =>
    intro m s t u p hm h2 h1 hcall hret
    obtain rfl := Host.Outcome.next.inj hcall
    have hpc : p.pc = s.pcNext (.jsr m) := State.eaMem_pc ..
    have hcfg : p.cfg = s.cfg := State.eaMem_cfg ..
    have hmem : p.mem = s.mem := State.eaMem_mem ..
    rw [← State.writable_congr hcfg] at h2 h1
    rw [← hpc]
    exact exec_rts_callTo (by rwa [hmem]) h2 h1 hret
  case bsr =>
    intro rel s t u hm h2 h1 hcall hret
    obtain rfl := Host.Outcome.next.inj hcall
    exact exec_rts_callTo (c := s.advance (.bsr rel)) hm h2 h1 hret
  case call =>
    intro ct s t u p hm hn h3 h2 h1 hcall hret
    obtain ⟨htm, htc, htsp⟩ := exec_call_leaves hcall
    have hpc : p.pc = s.pcNext (.call ct) := State.callTarget_pc ..
    have hpage : p.ppage = s.ppage := State.callTarget_ppage ..
    have hcfg : p.cfg = s.cfg := State.callTarget_cfg ..
    have hmem : p.mem = s.mem := State.callTarget_mem ..
    rw [← State.writable_congr hcfg] at h3 h2 h1
    rw [← hpc, ← hpage]
    exact exec_rtc_callStack (by rwa [hmem]) (by rwa [hcfg]) h3 h2 h1 htm htc htsp hret

end Sys2Proof.Machine
end

section
/-!
SUPPORT. The flags after each operation on data: a flag that the operation's rule does not name is kept (10_state.md
R45).
-/

namespace Sys2Proof.Machine

/-- The flags after an addition of bytes (10_state.md R47). -/
@[simp] theorem getFlag_add8 (ccr a m : Byte) (cin : Bool) (g : Flag) :
    getFlag (add8 ccr a m cin).2 g =
      if g = .c then decide (256 ≤ a.toNat + m.toNat + bitOf cin)
      else if g = .v then a.msb == m.msb && (add8 ccr a m cin).1.msb != a.msb
      else if g = .z then (add8 ccr a m cin).1 == 0
      else if g = .n then (add8 ccr a m cin).1.msb
      else if g = .h then decide (16 ≤ a.toNat % 16 + m.toNat % 16 + bitOf cin)
      else getFlag ccr g := by
  simp [add8]

/-- The flags after a subtraction of bytes (10_state.md R49). -/
@[simp] theorem getFlag_sub8 (ccr a m : Byte) (bin : Bool) (g : Flag) :
    getFlag (sub8 ccr a m bin).2 g =
      if g = .c then decide ((a.toNat : Int) - m.toNat - bitOf bin < 0)
      else if g = .v then a.msb != m.msb && (sub8 ccr a m bin).1.msb != a.msb
      else if g = .z then (sub8 ccr a m bin).1 == 0
      else if g = .n then (sub8 ccr a m bin).1.msb
      else getFlag ccr g := by
  simp [sub8]

/-- The flags after an addition of words (10_state.md R48). -/
@[simp] theorem getFlag_add16 (ccr : Byte) (a m : Word) (g : Flag) :
    getFlag (add16 ccr a m).2 g =
      if g = .c then decide (65536 ≤ a.toNat + m.toNat)
      else if g = .v then a.msb == m.msb && (add16 ccr a m).1.msb != a.msb
      else if g = .z then (add16 ccr a m).1 == 0
      else if g = .n then (add16 ccr a m).1.msb
      else getFlag ccr g := by
  simp [add16]

/-- The flags after a subtraction of words (10_state.md R50). -/
@[simp] theorem getFlag_sub16 (ccr : Byte) (a m : Word) (g : Flag) :
    getFlag (sub16 ccr a m).2 g =
      if g = .c then decide ((a.toNat : Int) - m.toNat < 0)
      else if g = .v then a.msb != m.msb && (sub16 ccr a m).1.msb != a.msb
      else if g = .z then (sub16 ccr a m).1 == 0
      else if g = .n then (sub16 ccr a m).1.msb
      else getFlag ccr g := by
  simp [sub16]

/-- The flags after a shift of a byte (10_state.md R51). -/
@[simp] theorem getFlag_shiftFlags8 (ccr r : Byte) (cout : Bool) (g : Flag) :
    getFlag (shiftFlags8 ccr r cout) g =
      if g = .c then cout else if g = .v then Bool.xor r.msb cout else if g = .z then r == 0
      else if g = .n then r.msb else getFlag ccr g := by
  simp [shiftFlags8]

/-- The flags after a shift of a word (10_state.md R51). -/
@[simp] theorem getFlag_shiftFlags16 (ccr : Byte) (r : Word) (cout : Bool) (g : Flag) :
    getFlag (shiftFlags16 ccr r cout) g =
      if g = .c then cout else if g = .v then Bool.xor r.msb cout else if g = .z then r == 0
      else if g = .n then r.msb else getFlag ccr g := by
  simp [shiftFlags16]

/-- The flags after a test of a byte (10_state.md R53). -/
@[simp] theorem getFlag_tstFlags8 (ccr m : Byte) (g : Flag) :
    getFlag (tstFlags8 ccr m) g =
      if g = .c then false else if g = .v then false else if g = .z then m == 0 else if g = .n then m.msb
      else getFlag ccr g := by
  simp [tstFlags8]

/-- The flags after a clear (10_state.md R53). -/
@[simp] theorem getFlag_clrFlags (ccr : Byte) (g : Flag) :
    getFlag (clrFlags ccr) g =
      if g = .c then false else if g = .v then false else if g = .z then true else if g = .n then false
      else getFlag ccr g := by
  simp [clrFlags]

/-- The flags after an increment: C is kept (10_state.md R52). -/
@[simp] theorem getFlag_inc8 (ccr m : Byte) (g : Flag) :
    getFlag (inc8 ccr m).2 g =
      if g = .v then m == 0x7F else if g = .z then m + 1 == 0 else if g = .n then (m + 1).msb
      else getFlag ccr g := by
  simp only [inc8, getFlag_setNZV]

/-- The flags after a decrement: C is kept (10_state.md R52). -/
@[simp] theorem getFlag_dec8 (ccr m : Byte) (g : Flag) :
    getFlag (dec8 ccr m).2 g =
      if g = .v then m == 0x80 else if g = .z then m - 1 == 0 else if g = .n then (m - 1).msb
      else getFlag ccr g := by
  simp only [dec8, getFlag_setNZV]

/-- The flags after a negation (10_state.md R53). -/
@[simp] theorem getFlag_neg8 (ccr m : Byte) (g : Flag) :
    getFlag (neg8 ccr m).2 g =
      if g = .c then 0 - m != 0 else if g = .v then 0 - m == 0x80 else if g = .z then 0 - m == 0
      else if g = .n then (0 - m).msb else getFlag ccr g := by
  simp only [neg8, getFlag_setNZVC]

/-- The flags after a complement (10_state.md R53). -/
@[simp] theorem getFlag_com8 (ccr m : Byte) (g : Flag) :
    getFlag (com8 ccr m).2 g =
      if g = .c then true else if g = .v then false else if g = .z then ~~~m == 0
      else if g = .n then (~~~m).msb else getFlag ccr g := by
  simp only [com8, getFlag_setNZVC]

/-- The result and the flags of each shift and rotate (43_logic_bit_shift.md R350). -/
@[simp] theorem getFlag_lsl8 (ccr m : Byte) (g : Flag) :
    getFlag (lsl8 ccr m).2 g = getFlag (shiftFlags8 ccr (lsl8 ccr m).1 m.msb) g := rfl
@[simp] theorem getFlag_rol8 (ccr m : Byte) (g : Flag) :
    getFlag (rol8 ccr m).2 g = getFlag (shiftFlags8 ccr (rol8 ccr m).1 m.msb) g := rfl
@[simp] theorem getFlag_asr8 (ccr m : Byte) (g : Flag) :
    getFlag (asr8 ccr m).2 g = getFlag (shiftFlags8 ccr (asr8 ccr m).1 (m.getLsbD 0)) g := rfl
@[simp] theorem getFlag_lsr8 (ccr m : Byte) (g : Flag) :
    getFlag (lsr8 ccr m).2 g = getFlag (shiftFlags8 ccr (lsr8 ccr m).1 (m.getLsbD 0)) g := rfl
@[simp] theorem getFlag_ror8 (ccr m : Byte) (g : Flag) :
    getFlag (ror8 ccr m).2 g = getFlag (shiftFlags8 ccr (ror8 ccr m).1 (m.getLsbD 0)) g := rfl
@[simp] theorem getFlag_lsl16 (ccr : Byte) (m : Word) (g : Flag) :
    getFlag (lsl16 ccr m).2 g = getFlag (shiftFlags16 ccr (lsl16 ccr m).1 m.msb) g := rfl
@[simp] theorem getFlag_lsr16 (ccr : Byte) (m : Word) (g : Flag) :
    getFlag (lsr16 ccr m).2 g = getFlag (shiftFlags16 ccr (lsr16 ccr m).1 (m.getLsbD 0)) g := rfl

/-- The flags after a decimal adjust (42_arithmetic.md R273). -/
@[simp] theorem getFlag_daa8 (ccr a : Byte) (v : Bool) (g : Flag) :
    getFlag (daa8 ccr a v).2 g =
      if g = .c then (daaCorrection ccr a).2 else if g = .v then v else if g = .z then (daa8 ccr a v).1 == 0
      else if g = .n then (daa8 ccr a v).1.msb else getFlag ccr g := by
  simp only [daa8, getFlag_setNZVC]

end Sys2Proof.Machine
end

section
/-!
SUPPORT. What an instruction that changes no flow leaves alone, whatever its operands: it sets X in no state where X
was clear (10_state.md R33), leaves PPAGE where no address holds it (R37), and keeps the queue and every stale byte
(20_memory.md R101, R102). One rule per shared operation says that the operation keeps to this; an instruction's proof
chains them.
-/

namespace Sys2Proof.Machine

/-- From `s` to `t` no change of flow, and nothing that only CALL, RTC, a reset or XIRQ may do. -/
structure Ordinary (s t : State) : Prop where
  xm : getFlag s.ccr .xm = false → getFlag t.ccr .xm = false
  page : s.cfg.ppageAddr = none → t.ppage = s.ppage
  config : t.cfg = s.cfg
  requests : t.requests = s.requests
  queue : t.queue = s.queue
  stale : s.stale <:+ t.stale

theorem Ordinary.refl (s : State) : Ordinary s s := ⟨id, fun _ => rfl, rfl, rfl, rfl, List.suffix_refl _⟩

theorem Ordinary.trans {s t u : State} (h : Ordinary s t) (h' : Ordinary t u) : Ordinary s u where
  xm := h'.xm ∘ h.xm
  page hn := (h'.page (by rwa [h.config])).trans (h.page hn)
  config := h'.config.trans h.config
  requests := h'.requests.trans h.requests
  queue := h'.queue.trans h.queue
  stale := h.stale.trans h'.stale

/-- A change of registers, of flags but X, of memory or of the counter of draws is ordinary. -/
theorem Ordinary.of_fields {s t : State} (hx : getFlag s.ccr .xm = false → getFlag t.ccr .xm = false)
    (hp : t.ppage = s.ppage) (hc : t.cfg = s.cfg) (hr : t.requests = s.requests) (hq : t.queue = s.queue)
    (hs : t.stale = s.stale) : Ordinary s t :=
  ⟨hx, fun _ => hp, hc, hr, hq, hs ▸ List.suffix_refl _⟩

section
variable {s t : State} (h : Ordinary s t)
include h

/-! ## Registers and flags -/

/-- New registers and a new CCR whose X is the old one. -/
theorem Ordinary.registers {a b ccr : Byte} {x y sp pc : Word} {draws : Nat}
    (hx : getFlag t.ccr .xm = false → getFlag ccr .xm = false) :
    Ordinary s { t with a := a, b := b, x := x, y := y, sp := sp, pc := pc, ccr := ccr, draws := draws } :=
  h.trans (.of_fields hx rfl rfl rfl rfl rfl)

theorem Ordinary.advance (i : Instr) : Ordinary s (t.advance i) := h.registers id

theorem Ordinary.setD (v : Word) : Ordinary s (t.setD v) := h.registers id

theorem Ordinary.setCcr {c : Byte} (hx : getFlag t.ccr .xm = false → getFlag c .xm = false) :
    Ordinary s (t.setCcr c) := h.registers hx

theorem Ordinary.setA {p : Byte × Byte} (hx : getFlag t.ccr .xm = false → getFlag p.2 .xm = false) :
    Ordinary s (t.setA p) := h.registers hx

theorem Ordinary.setB {p : Byte × Byte} (hx : getFlag t.ccr .xm = false → getFlag p.2 .xm = false) :
    Ordinary s (t.setB p) := h.registers hx

theorem Ordinary.setDFlags {p : Word × Byte} (hx : getFlag t.ccr .xm = false → getFlag p.2 .xm = false) :
    Ordinary s (t.setDFlags p) := h.registers hx

theorem Ordinary.setAutoBase (r : AutoBase) (v : Word) : Ordinary s (t.setAutoBase r v) := by
  cases r <;> exact h.registers id

theorem Ordinary.setReg8 (r : Reg8) (v : Byte) : Ordinary s (t.setReg8 r v) := by
  cases r with
  | a => exact h.registers id
  | b => exact h.registers id
  | ccr => exact h.registers fun hx => by simp [hx]

theorem Ordinary.setReg16 (r : Reg16) (v : Word) : Ordinary s (t.setReg16 r v) := by
  cases r <;> exact h.registers id

theorem Ordinary.drawByte : Ordinary s t.drawByte.2 := h.registers id

theorem Ordinary.drawFlags {fs : List Flag} (hx : .xm ∉ fs) : Ordinary s (t.drawFlags fs) :=
  h.trans (.of_fields (by rw [getFlag_drawFlags fs t .xm hx]; exact id) (by simp) (by simp) (by simp) (by simp)
      (by simp))

theorem Ordinary.drawFlag {f : Flag} (hx : .xm ≠ f) : Ordinary s (t.drawFlag f) :=
  h.drawFlags (fs := [f]) (by simpa using hx)

theorem Ordinary.withRunState (r : RunState) : Ordinary s { t with runState := r } :=
  h.trans (.of_fields id rfl rfl rfl rfl rfl)

/-! ## Memory and the stack -/

theorem Ordinary.read8 (a : Word) : Ordinary s (t.read8 a).2 := by
  rw [State.read8_frame]; exact h.registers id

theorem Ordinary.read16 (a : Word) : Ordinary s (t.read16 a).2 := by
  rw [State.read16_frame]; exact h.registers id

theorem Ordinary.write8 (a : Word) (v : Byte) : Ordinary s (t.write8 a v) := by
  refine h.trans ⟨by simp, fun hn => State.ppage_write8 v (by simp [hn]), by simp, by simp, by simp, ?_⟩
  unfold State.write8
  split
  · exact List.suffix_cons ..
  · cases t.kindAt a with
    | ram => exact List.suffix_cons ..
    | rom => exact List.suffix_refl _
    | device => exact List.suffix_refl _
    | unimplemented => exact List.suffix_refl _

theorem Ordinary.write16 (a v : Word) : Ordinary s (t.write16 a v) := (h.write8 _ _).write8 _ _

theorem Ordinary.push8 (v : Byte) : Ordinary s (t.push8 v) :=
  (show Ordinary s { t with sp := t.sp - 1 } from h.registers id).write8 _ _

theorem Ordinary.push16 (v : Word) : Ordinary s (t.push16 v) :=
  (show Ordinary s { t with sp := t.sp - 2 } from h.registers id).write16 _ _

theorem Ordinary.pull8 : Ordinary s t.pull8.2 := (h.read8 t.sp).registers id

theorem Ordinary.pull16 : Ordinary s t.pull16.2 := (h.read16 t.sp).registers id

theorem Ordinary.stackFrame (rtn : Word) : Ordinary s (t.stackFrame rtn) :=
  ((((h.push16 _).push16 _).push16 _).push16 _).push8 _

/-! ## Operands -/

theorem Ordinary.eaShort (f : IdxShort) : Ordinary s (t.eaShort f).2 := by
  cases f with
  | const5 r n => exact h
  | pre r n => exact h.setAutoBase _ _
  | post r n => exact h.setAutoBase _ _
  | acc r o => exact h

theorem Ordinary.eaDirect (f : IdxDirect) : Ordinary s (t.eaDirect f).2 := by
  cases f with
  | short f => exact h.eaShort f
  | const9 r n => exact h
  | const16 r n => exact h

theorem Ordinary.eaFull (f : IdxFull) : Ordinary s (t.eaFull f).2 := by
  cases f with
  | direct f => exact h.eaDirect f
  | indD r => exact h.read16 _
  | ind16 r n => exact h.read16 _

theorem Ordinary.eaMem (m : MemOperand) : Ordinary s (t.eaMem m).2 := by
  cases m with
  | dir a => exact h
  | ext a => exact h
  | idx f => exact h.eaFull f

theorem Ordinary.eaRmw (m : RmwOperand) : Ordinary s (t.eaRmw m).2 := by
  cases m with
  | ext a => exact h
  | idx f => exact h.eaFull f

theorem Ordinary.eaBit (m : BitOperand) : Ordinary s (t.eaBit m).2 := by
  cases m with
  | dir a => exact h
  | ext a => exact h
  | idx f => exact h.eaDirect f

theorem Ordinary.eaDest (d : MoveDest) : Ordinary s (t.eaDest d).2 := by
  cases d with
  | ext a => exact h
  | idx f => exact h.eaShort f

theorem Ordinary.operand8 (o : Operand8) : Ordinary s (t.operand8 o).2 := by
  cases o with
  | imm v => exact h
  | mem m => exact (h.eaMem m).read8 _

theorem Ordinary.operand16 (o : Operand16) : Ordinary s (t.operand16 o).2 := by
  cases o with
  | imm v => exact h
  | mem m => exact (h.eaMem m).read16 _

theorem Ordinary.moveSource8 (o : MoveSource8) : Ordinary s (t.moveSource8 o).2 := by
  cases o with
  | imm v => exact h
  | ext a => exact h.read8 a
  | idx f => exact (h.eaShort f).read8 _

theorem Ordinary.moveSource16 (o : MoveSource16) : Ordinary s (t.moveSource16 o).2 := by
  cases o with
  | imm v => exact h
  | ext a => exact h.read16 a
  | idx f => exact (h.eaShort f).read16 _

/-! ## Shapes -/

theorem Ordinary.aluA (o : Operand8) {op : Byte → Byte → Byte → Byte × Byte}
    (hx : ∀ c a m, getFlag (op c a m).2 .xm = getFlag c .xm) : Ordinary s (t.aluA o op) :=
  (h.operand8 o).setA (by rw [hx]; exact id)

theorem Ordinary.aluB (o : Operand8) {op : Byte → Byte → Byte → Byte × Byte}
    (hx : ∀ c a m, getFlag (op c a m).2 .xm = getFlag c .xm) : Ordinary s (t.aluB o op) :=
  (h.operand8 o).setB (by rw [hx]; exact id)

theorem Ordinary.testA (o : Operand8) {op : Byte → Byte → Byte → Byte × Byte}
    (hx : ∀ c a m, getFlag (op c a m).2 .xm = getFlag c .xm) : Ordinary s (t.testA o op) :=
  (h.operand8 o).setCcr (by rw [hx]; exact id)

theorem Ordinary.testB (o : Operand8) {op : Byte → Byte → Byte → Byte × Byte}
    (hx : ∀ c a m, getFlag (op c a m).2 .xm = getFlag c .xm) : Ordinary s (t.testB o op) :=
  (h.operand8 o).setCcr (by rw [hx]; exact id)

theorem Ordinary.aluD (o : Operand16) {op : Byte → Word → Word → Word × Byte}
    (hx : ∀ c a m, getFlag (op c a m).2 .xm = getFlag c .xm) : Ordinary s (t.aluD o op) :=
  (h.operand16 o).setDFlags (by rw [hx]; exact id)

theorem Ordinary.compare16 (o : Operand16) (reg : State → Word) : Ordinary s (t.compare16 o reg) :=
  (h.operand16 o).setCcr (by simp)

theorem Ordinary.store8 (m : MemOperand) (value : State → Byte) : Ordinary s (t.store8 m value) :=
  ((h.eaMem m).write8 _ _).setCcr (by simp)

theorem Ordinary.store16 (m : MemOperand) (value : State → Word) : Ordinary s (t.store16 m value) :=
  ((h.eaMem m).write16 _ _).setCcr (by simp)

theorem Ordinary.modifyAt (ea : Word) {op : Byte → Byte → Byte × Byte}
    (hx : ∀ c m, getFlag (op c m).2 .xm = getFlag c .xm) : Ordinary s (t.modifyAt ea op) :=
  ((h.read8 ea).write8 _ _).setCcr (by rw [hx]; simp)

theorem Ordinary.rmw (m : RmwOperand) {op : Byte → Byte → Byte × Byte}
    (hx : ∀ c m, getFlag (op c m).2 .xm = getFlag c .xm) : Ordinary s (t.rmw m op) := (h.eaRmw m).modifyAt _ hx

theorem Ordinary.modifyBits (m : BitOperand) (op : Byte → Byte) : Ordinary s (t.modifyBits m op) :=
  (h.eaBit m).modifyAt (op := fun ccr v => (op v, logicFlags8 ccr (op v))) _ (by simp)

theorem Ordinary.unaryA {op : Byte → Byte → Byte × Byte} (hx : ∀ c m, getFlag (op c m).2 .xm = getFlag c .xm) :
    Ordinary s (t.unaryA op) := h.setA (by rw [hx]; exact id)

theorem Ordinary.unaryB {op : Byte → Byte → Byte × Byte} (hx : ∀ c m, getFlag (op c m).2 .xm = getFlag c .xm) :
    Ordinary s (t.unaryB op) := h.setB (by rw [hx]; exact id)

theorem Ordinary.unaryD {op : Byte → Word → Word × Byte} (hx : ∀ c m, getFlag (op c m).2 .xm = getFlag c .xm) :
    Ordinary s (t.unaryD op) := h.setDFlags (by rw [hx]; exact id)

/-! ## Moves and exchanges -/

theorem Ordinary.transfer (r1 r2 : Reg) : Ordinary s (t.transfer r1 r2) := by
  rcases r1 with p | p <;> rcases r2 with q | q
  · exact h.setReg8 _ _
  · exact h.setReg16 _ _
  · exact h.setReg8 _ _
  · exact h.setReg16 _ _

theorem Ordinary.exchange8To16 (p : Reg8) (q : Reg16) : Ordinary s (t.exchange8To16 p q) := by
  unfold State.exchange8To16
  have ht := h.setReg16 q ((t.getReg8 p).zeroExtend 16)
  split
  · exact ht
  · exact ht
  · exact ht.drawByte.setReg8 _ _

theorem Ordinary.exchange16To8 (p : Reg16) (q : Reg8) : Ordinary s (t.exchange16To8 p q) := by
  unfold State.exchange16To8
  simp only
  split
  · exact h.registers id
  · exact h.drawByte.registers id
  · exact (h.drawByte.setReg16 _ _).setReg8 _ _

theorem Ordinary.exchange (r1 r2 : Reg) : Ordinary s (t.exchange r1 r2) := by
  rcases r1 with p | p <;> rcases r2 with q | q
  · exact (h.setReg8 _ _).setReg8 _ _
  · exact h.exchange8To16 p q
  · exact h.exchange16To8 p q
  · exact (h.setReg16 _ _).setReg16 _ _

theorem Ordinary.moveByte (src : MoveSource8) (dst : MoveDest) : Ordinary s (t.moveByte src dst) :=
  ((h.moveSource8 src).eaDest dst).write8 _ _

theorem Ordinary.moveWord (src : MoveSource16) (dst : MoveDest) : Ordinary s (t.moveWord src dst) :=
  ((h.moveSource16 src).eaDest dst).write16 _ _

/-! ## Multiply, divide, minimum, maximum, tables -/

theorem Ordinary.setProduct (p : BitVec 32) : Ordinary s (t.setProduct p) := h.registers (by simp)

theorem Ordinary.extendedCorner (op : DivOp) (byZero : Bool) : Ordinary s (t.extendedCorner op byZero) := by
  have ht : Ordinary s { t.setD (Config.divCorner op t.yd t.x).2 with y := (Config.divCorner op t.yd t.x).1 } :=
    h.registers id
  cases byZero with
  | false => exact (ht.setCcr (by simp)).drawFlags (by decide)
  | true => exact (ht.setCcr (by simp)).drawFlags (by decide)

theorem Ordinary.extendedResult (q r : Word) : Ordinary s (t.extendedResult q r) := h.registers (by simp)

theorem Ordinary.divideExtended : Ordinary s t.divideExtended := by
  unfold State.divideExtended
  simp only
  split
  · exact h.extendedCorner _ _
  · split
    · exact h.extendedCorner _ _
    · exact h.extendedResult _ _

theorem Ordinary.divideExtendedSigned : Ordinary s t.divideExtendedSigned := by
  unfold State.divideExtendedSigned
  simp only
  split
  · exact h.extendedCorner _ _
  · split
    · exact h.extendedCorner _ _
    · exact h.extendedResult _ _

theorem Ordinary.shortCorner (op : DivOp) (v c : Bool) : Ordinary s (t.shortCorner op v c) := h.registers (by simp)

theorem Ordinary.shortResult (q r : Word) : Ordinary s (t.shortResult q r) := h.registers (by simp)

theorem Ordinary.divideFraction : Ordinary s t.divideFraction := by
  unfold State.divideFraction
  simp only
  split
  · exact h.shortCorner _ _ _
  · split
    · exact h.shortCorner _ _ _
    · exact h.shortResult _ _

theorem Ordinary.divideInteger : Ordinary s t.divideInteger := by
  unfold State.divideInteger
  simp only
  split
  · exact h.shortCorner _ _ _
  · exact h.shortResult _ _

theorem Ordinary.signedCorner (byZero : Bool) : Ordinary s (t.signedCorner byZero) := by
  have ht : Ordinary s { t.setD (Config.divCorner .idivs (t.d.signExtend 32) t.x).2 with
      x := (Config.divCorner .idivs (t.d.signExtend 32) t.x).1 } := h.registers id
  cases byZero with
  | false => exact (ht.setCcr (by simp)).drawFlags (by decide)
  | true => exact (ht.setCcr (by simp)).drawFlags (by decide)

theorem Ordinary.divideSigned : Ordinary s t.divideSigned := by
  unfold State.divideSigned
  simp only
  split
  · exact h.signedCorner _
  · split
    · exact h.signedCorner _
    · exact h.registers (by simp)

theorem Ordinary.multiplyAccumulate (ea : Word) : Ordinary s (t.multiplyAccumulate ea) :=
  ((((((h.read16 _).read16 _).read16 _).read16 _).write16 _ _).write16 _ _).setCcr (by simp)

theorem Ordinary.chooseA (f : IdxFull) (pick : Byte → Byte → Byte) : Ordinary s (t.chooseA f pick) :=
  ((h.eaFull f).read8 _).setA (by simp)

theorem Ordinary.chooseD (f : IdxFull) (pick : Word → Word → Word) : Ordinary s (t.chooseD f pick) :=
  ((h.eaFull f).read16 _).setDFlags (by simp)

theorem Ordinary.choose8 (f : IdxFull) (pick : Byte → Byte → Byte) : Ordinary s (t.choose8 f pick) :=
  (((h.eaFull f).read8 _).write8 _ _).setCcr (by simp)

theorem Ordinary.choose16 (f : IdxFull) (pick : Word → Word → Word) : Ordinary s (t.choose16 f pick) :=
  (((h.eaFull f).read16 _).write16 _ _).setCcr (by simp)

theorem Ordinary.tableCarry (product : Int) : Ordinary s (t.tableCarry product) := by
  unfold State.tableCarry
  cases t.cfg.variant with
  | hcs12 => exact h.setCcr (by simp)
  | m68hc12 => exact h.drawFlag (by decide)

theorem Ordinary.tableLookup8 (f : IdxShort) : Ordinary s (t.tableLookup8 f) :=
  ((((h.eaShort f).read8 _).read8 _).setA (by simp)).tableCarry _

theorem Ordinary.tableLookup16 (f : IdxShort) : Ordinary s (t.tableLookup16 f) :=
  ((((h.eaShort f).read16 _).read16 _).setDFlags (by simp)).tableCarry _

/-! ## Fuzzy logic -/

theorem Ordinary.raiseOutput (ea : Word) : Ordinary s (t.raiseOutput ea) :=
  (h.write8 ea t.a).trans (.of_fields id rfl rfl rfl rfl rfl)

theorem Ordinary.revElement (rx : Byte) : Ordinary s (t.revElement rx) := by
  unfold State.revElement
  simp only
  split
  · exact h.registers (by simp)
  · split
    · split
      · exact (h.read8 _).raiseOutput _
      · exact h.read8 _
    · exact (h.read8 _).registers id

theorem Ordinary.revwElement (rx : Word) : Ordinary s (t.revwElement rx) := by
  unfold State.revwElement
  simp only
  split
  · split
    · exact h.registers (by simp)
    · split
      · exact (h.read8 _).registers (by simp)
      · exact h.registers (by simp)
  · split
    · split
      · exact (h.read8 _).raiseOutput _
      · exact h.read8 _
    · exact (h.read8 _).registers id

theorem Ordinary.wavFinish (sums : Sums) (pcEnd : Word) : Ordinary s (t.wavFinish sums pcEnd) :=
  (show Ordinary s { t.setD (sums.sop.extractLsb' 0 16) with
      y := sums.sop.extractLsb' 16 16, x := sums.sow, pc := pcEnd, ccr := setFlag t.ccr .z true } from
    h.registers (by simp)).drawFlags (by decide)

end

end Sys2Proof.Machine
end

section
/-!
SUPPORT. The two loops that look at the requests (60_exceptions.md R574): what holds before an evaluation, and
survives a turn and a sampling point, holds after it.
-/

namespace Sys2Proof.Machine

/-- `P` survives a sampling point inside REV, REVW or WAV: no reset cuts the work off there, and `P` holds whether a
request is taken or not. -/
structure SurvivesSampling (P : State → Prop) : Prop where
  uncut : ∀ t, P t → t.sample.1.cutBy = none
  quiet : ∀ t, P t → P t.sample.2
  taken : ∀ t e, P t → t.sample.2.eventOf t.sample.1 = some e → P (t.sample.2.takeEvent e)
  weighted : ∀ t e sums pc, P t → t.sample.2.eventOf t.sample.1 = some e → P (t.sample.2.wavInterrupt sums pc e)

/-- Work that no reset cuts off is just done. -/
theorem State.unlessCut_none (s : State) {r : Requests} (h : r.cutBy = none) (work : State → State) :
    s.unlessCut r work = work s := by
  unfold State.unlessCut
  rw [h]

/-- The rule loop of REV and REVW, by its turns (46_fuzzy.md R523 to R525). -/
theorem ruleLoop_keeps {P : State → Prop} {turn : State → RuleTurn} {finish : State → State} {kind : Progress}
    (hs : SurvivesSampling P) (hfin : ∀ s t, P s → turn s = .finished t → P (finish { t with ruleStores := [] }))
    (hagain : ∀ s t, P s → turn s = .again t → P t) (hpause : ∀ s, P s → P { s with progress := some kind }) :
    ∀ fuel s, P s → P (ruleLoop turn finish kind fuel s) := by
  intro fuel
  induction fuel with
  | zero => exact hpause
  | succ fuel ih =>
    intro s h
    unfold ruleLoop
    cases hturn : turn s with
    | finished t => exact hfin s t h hturn
    | again t =>
      have ht := hagain s t h hturn
      cases fuel with
      | zero => exact hpause t ht
      | succ more =>
        simp only [State.unlessCut_none _ (hs.uncut t ht)]
        cases he : t.sample.2.eventOf t.sample.1 with
        | none => exact ih _ (hs.quiet t ht)
        | some e => exact hs.taken t e ht he

/-- The loop of WAV, by its elements (46_fuzzy.md R527). -/
theorem wavLoop_keeps {P : State → Prop} (hs : SurvivesSampling P) {resumeAt pcEnd : Word}
    (hread : ∀ s a, P s → P (s.read8 a).2) (hregs : ∀ s b x y, P s → P { s with b := b, x := x, y := y })
    (hfin : ∀ s sums, P s → P (s.wavFinish sums pcEnd)) :
    ∀ n sums s, P s → P (wavLoop resumeAt pcEnd n sums s) := by
  intro n
  induction n with
  | zero => exact fun sums s h => hfin s sums h
  | succ n ih =>
    intro sums s h
    unfold wavLoop
    have ht := hread _ s.x (hread s s.y h)
    simp only [State.unlessCut_none _ (hs.uncut _ ht)]
    cases he : (((s.read8 s.y).2.read8 s.x).2.sample.2).eventOf ((s.read8 s.y).2.read8 s.x).2.sample.1 with
    | none => exact ih _ _ (hregs _ _ _ _ (hs.quiet _ ht))
    | some e => exact hs.weighted _ e sums resumeAt ht he

/-! ## With nothing requested -/

/-- Ordinary work from `s`, with nothing requested. -/
def Undisturbed (s t : State) : Prop := Ordinary s t ∧ t.requests = []

theorem Undisturbed.of_ordinary {s t u : State} (h : Undisturbed s t) (h' : ∀ {r}, Ordinary r t → Ordinary r u) :
    Undisturbed s u := ⟨h' h.1, (h' (.refl t)).requests.trans h.2⟩

theorem survivesSampling_undisturbed (s : State) : SurvivesSampling (Undisturbed s) where
  uncut t h := by rw [State.sample_nil h.2]; rfl
  quiet t h := by rwa [State.sample_nil h.2]
  taken t e h he := by rw [State.sample_nil h.2] at he; simp at he
  weighted t e sums pc h he := by rw [State.sample_nil h.2] at he; simp at he

/-- One turn of REV is ordinary work. -/
theorem Ordinary.revTurn {r s t : State} (h : Ordinary r s) (ht : s.revTurn = .finished t ∨ s.revTurn = .again t) :
    Ordinary r t := by
  have hu : Ordinary r { (s.read8 s.x).2 with x := s.x + 1 } := (h.read8 s.x).registers id
  unfold State.revTurn at ht
  simp only at ht
  split at ht
  · simp only [RuleTurn.finished.injEq, reduceCtorEq, or_false] at ht
    exact ht ▸ hu
  · simp only [RuleTurn.again.injEq, reduceCtorEq, false_or] at ht
    exact ht ▸ hu.revElement _

/-- One turn of REVW is ordinary work. -/
theorem Ordinary.revwTurn {r s t : State} (h : Ordinary r s) (ht : s.revwTurn = .finished t ∨ s.revwTurn = .again t) :
    Ordinary r t := by
  have hu : Ordinary r { (s.read16 s.x).2 with x := s.x + 2 } := (h.read16 s.x).registers id
  unfold State.revwTurn at ht
  simp only at ht
  split at ht
  · simp only [RuleTurn.finished.injEq, reduceCtorEq, or_false] at ht
    exact ht ▸ hu
  · simp only [RuleTurn.again.injEq, reduceCtorEq, false_or] at ht
    exact ht ▸ hu.revwElement _

/-- Forgetting the stores of an evaluation, or noting that it is unfinished, is ordinary work. -/
theorem Ordinary.evaluation {s t : State} (h : Ordinary s t) (p : Option Progress) (l : List Word) :
    Ordinary s { t with progress := p, ruleStores := l } := h.trans (.of_fields id rfl rfl rfl rfl rfl)

/-! ## REV, REVW, WAV and wavr -/

/-- The instructions that look at the requests while they run (60_exceptions.md R574). -/
def samplesInside : Instr → Bool
  | .rev | .revw | .wav | .wavr => true
  | _ => false

theorem samplesInside_iff {i : Instr} :
    samplesInside i = true ↔ i = .rev ∨ i = .revw ∨ i = .wav ∨ i = .wavr := by
  cases i <;> simp [samplesInside]

/-- Whatever ordinary work and a sampling point keep, an instruction that looks at the requests keeps. -/
theorem exec_samplesInside_keeps {P : State → Prop} (hs : SurvivesSampling P)
    (ho : ∀ {t u}, P t → (∀ {r}, Ordinary r t → Ordinary r u) → P u) {i : Instr} {s t : State} (h : P s)
    (hi : samplesInside i = true) (hx : exec i s = .next t) : P t := by
  have hwav (resumeAt pcEnd : Word) : ∀ n sums s, P s → P (wavLoop resumeAt pcEnd n sums s) :=
    wavLoop_keeps hs (fun _ a h => ho h fun h => h.read8 a) (fun _ _ _ _ h => ho h fun h => h.registers id)
      fun _ sums h => ho h fun h => h.wavFinish sums pcEnd
  obtain rfl | rfl | rfl | rfl := samplesInside_iff.mp hi
  case inl =>
    obtain rfl := Host.Outcome.next.inj hx
    exact ruleLoop_keeps hs
      (fun _ _ h ht => ho h fun h => (((h.revTurn (.inl ht)).evaluation _ []).advance .rev).drawFlags (by decide))
      (fun _ _ h ht => ho h fun h => h.revTurn (.inr ht)) (fun _ h => ho h fun h => h.evaluation _ _) _ s h
  case inr.inl =>
    obtain rfl := Host.Outcome.next.inj hx
    exact ruleLoop_keeps hs
      (fun _ _ h ht => ho h fun h => (((h.revwTurn (.inl ht)).evaluation _ []).advance .revw).drawFlags (by decide))
      (fun _ _ h ht => ho h fun h => h.revwTurn (.inr ht)) (fun _ h => ho h fun h => h.evaluation _ _) _ s h
  case inr.inr.inl =>
    change execWav s = _ at hx
    unfold execWav at hx
    split at hx
    · cases hx
    · obtain rfl := Host.Outcome.next.inj hx
      exact hwav _ _ _ _ s h
  case inr.inr.inr =>
    change execWavr s = _ at hx
    unfold execWavr at hx
    split at hx
    · cases hx
    · obtain rfl := Host.Outcome.next.inj hx
      exact hwav _ _ _ _ _ (ho h fun h => h.pull16.pull16.pull16)

end Sys2Proof.Machine
end

section
/-!
SUPPORT. Changes of flow (20_memory.md R102): which stale bytes a call or an exception entry leaves, and when a branch
is taken.
-/

namespace Sys2Proof.Machine

/-! ## Stale bytes on the stack -/

/-- Every stale byte lies among the `n` bytes from SP on. -/
def StaleOnStack (n : Nat) (s : State) : Prop := ∀ c ∈ s.stale, ∃ k < n, c.1 = (s.sp + BitVec.ofNat 16 k).toNat

theorem StaleOnStack.refill (s : State) : StaleOnStack 0 s.refill := by simp [StaleOnStack]

theorem StaleOnStack.mono {m n : Nat} {s t : State} (h : StaleOnStack m s) (hmn : m ≤ n) (hst : t.stale = s.stale)
    (hsp : t.sp = s.sp) : StaleOnStack n t := by
  intro c hc
  rw [hst] at hc
  obtain ⟨k, hk, e⟩ := h c hc
  exact ⟨k, by omega, by rw [hsp, e]⟩

/-- A byte becomes stale by a store to its address (20_memory.md R101). -/
theorem State.mem_stale_write8 {s : State} {a : Word} {v : Byte} {c : Host.Cell} (h : c ∈ (s.write8 a v).stale) :
    c.1 = a.toNat ∨ c ∈ s.stale := by
  unfold State.write8 at h
  split at h
  · exact (List.mem_cons.mp h).imp_left (congrArg Prod.fst)
  · cases hk : s.kindAt a <;> simp only [hk] at h
    · exact (List.mem_cons.mp h).imp_left (congrArg Prod.fst)
    all_goals exact .inr h

/-- The same for a word. -/
theorem State.mem_stale_write16 {s : State} {a v : Word} {c : Host.Cell} (h : c ∈ (s.write16 a v).stale) :
    c.1 = (a + 1).toNat ∨ c.1 = a.toNat ∨ c ∈ s.stale :=
  (State.mem_stale_write8 h).imp_right State.mem_stale_write8

theorem StaleOnStack.push8 {n : Nat} {s : State} (h : StaleOnStack n s) (v : Byte) :
    StaleOnStack (n + 1) (s.push8 v) := by
  intro c hc
  rw [State.push8_sp]
  rcases State.mem_stale_write8 hc with e | hc
  · exact ⟨0, by omega, by simpa using e⟩
  · obtain ⟨k, hk, e⟩ := h c hc
    exact ⟨k + 1, by omega, by rw [e, BitVec.ofNat_add]; congr 1; bv_omega⟩

theorem StaleOnStack.push16 {n : Nat} {s : State} (h : StaleOnStack n s) (v : Word) :
    StaleOnStack (n + 2) (s.push16 v) := by
  intro c hc
  rw [State.push16_sp]
  rcases State.mem_stale_write16 hc with e | e | hc
  · exact ⟨1, by omega, e⟩
  · exact ⟨0, by omega, by simpa using e⟩
  · obtain ⟨k, hk, e⟩ := h c hc
    exact ⟨k + 2, by omega, by rw [e, BitVec.ofNat_add]; congr 1; bv_omega⟩

theorem StaleOnStack.stackFrame {n : Nat} {s : State} (h : StaleOnStack n s) (rtn : Word) :
    StaleOnStack (n + 9) (s.stackFrame rtn) := ((((h.push16 _).push16 _).push16 _).push16 _).push8 _

/-! ## Taking an exception -/

/-- The end of an exception entry touches no queue, no stack and no byte of memory, and sets X for XIRQ alone
(60_exceptions.md R570). -/
theorem State.vectorTo_keeps (s : State) (v : Word) (setX : Bool) :
    (s.vectorTo v setX).queue = s.queue ∧ (s.vectorTo v setX).stale = s.stale ∧ (s.vectorTo v setX).sp = s.sp ∧
      (s.vectorTo v setX).ppage = s.ppage ∧ (s.vectorTo v setX).requests = s.requests ∧
      getFlag (s.vectorTo v setX).ccr .xm = (setX || getFlag s.ccr .xm) := by
  cases setX <;> simp [State.vectorTo]

/-- The exception sequence ends at the vector, after the frame or without it. -/
theorem State.exceptionSequence_cases (s : State) (rtn v : Word) (setX : Bool) :
    s.exceptionSequence rtn v setX = (s.stackFrame rtn).vectorTo v setX ∨
      s.exceptionSequence rtn v setX = s.vectorTo v setX := by
  unfold State.exceptionSequence
  cases s.runState with
  | running => exact .inl rfl
  | waiting => exact .inr rfl
  | stopped => exact .inr rfl
  | background => exact .inl rfl

/-- An exception gives up the queue; the stale bytes left are its frame; but for XIRQ it leaves X alone. -/
theorem State.takeException_keeps (s : State) (rtn v : Word) (setX : Bool) :
    (s.takeException rtn v setX).queue = [] ∧ StaleOnStack 9 (s.takeException rtn v setX) ∧
      (s.cfg.ppageAddr = none → (s.takeException rtn v setX).ppage = s.ppage) ∧
      (s.takeException rtn v setX).requests = s.requests ∧
      getFlag (s.takeException rtn v setX).ccr .xm = (setX || getFlag s.ccr .xm) := by
  rw [State.takeException]
  have hframe : Ordinary s.refill (s.refill.stackFrame rtn) := (Ordinary.refl _).stackFrame rtn
  rcases s.refill.exceptionSequence_cases rtn v setX with e | e <;> rw [e]
  · obtain ⟨hq, hst, hsp, hp, hr, hx⟩ := (s.refill.stackFrame rtn).vectorTo_keeps v setX
    exact ⟨hq.trans hframe.queue, ((StaleOnStack.refill s).stackFrame rtn).mono (by decide) hst hsp,
      fun hn => hp.trans (hframe.page hn), hr.trans hframe.requests, by rw [hx, State.stackFrame_ccr]; rfl⟩
  · obtain ⟨hq, hst, hsp, hp, hr, hx⟩ := s.refill.vectorTo_keeps v setX
    exact ⟨hq, (StaleOnStack.refill s).mono (by decide) hst hsp, fun _ => hp, hr, hx⟩

/-! ## Counters -/

/-- A counter is zero after a move by `k` exactly where the number is, modulo what the counter holds. -/
theorem add_ofInt_eq_zero {w : Nat} (v : BitVec w) (k : Int) :
    (v + BitVec.ofInt w k == 0) = decide ((v.toNat + k) % 2 ^ w = 0) := by
  have h : v + BitVec.ofInt w k = BitVec.ofInt w (v.toNat + k) := by
    rw [BitVec.ofInt_add, BitVec.ofInt_natCast, BitVec.ofNat_toNat, BitVec.setWidth_eq]
  have hpos : (0 : Int) < 2 ^ w := Int.pow_pos (by decide)
  rw [h, Bool.eq_iff_iff, beq_iff_eq, decide_eq_true_eq, ← BitVec.toNat_inj, BitVec.toNat_ofInt]
  have hnn := Int.emod_nonneg (v.toNat + k) (Int.ne_of_gt hpos)
  simp
  omega

/-- The counter of a loop primitive after its move, as the statements count it (45_branch_jump_call.md R485). -/
theorem State.counterZero_addCounter (s : State) (r : LoopReg) (k : Int) :
    (s.addCounter r k).counterZero r =
      decide ((LoopRule.loopValue s r + k) % LoopRule.loopModulus r = 0) := by
  cases r with
  | a => exact add_ofInt_eq_zero s.a k
  | b => exact add_ofInt_eq_zero s.b k
  | d =>
    refine Eq.trans ?_ (add_ofInt_eq_zero s.d k)
    simp only [State.addCounter, State.counterZero, State.setD_d]
  | x => exact add_ofInt_eq_zero s.x k
  | y => exact add_ofInt_eq_zero s.y k
  | sp => exact add_ofInt_eq_zero s.sp k

end Sys2Proof.Machine
end

section
/-!
SUPPORT. What every instruction obeys, whatever its operands: X is not set (10_state.md R33), PPAGE is left alone
where it is at no address, by all but CALL and RTC (R37), and the queue follows the change of flow (20_memory.md
R102).
-/

namespace Sys2Proof.Machine

/-- From `s` to `t` the instruction `i` obeys the rules that hold for all instructions. -/
structure Obeys (i : Instr) (s t : State) : Prop where
  xm : getFlag s.ccr .xm = false → getFlag t.ccr .xm = false
  page : s.cfg.ppageAddr = none → (∀ c, i ≠ .call c) → i ≠ .rtc → t.ppage = s.ppage
  requests : t.requests = s.requests
  flow : FollowsFlow s t (flowOf i)

section
variable {i : Instr} {s t u : State}

/-- Ordinary work obeys the rules where no flow changes. -/
theorem Ordinary.obeys (h : Ordinary s t) (hf : flowOf i = .never) : Obeys i s t :=
  ⟨h.xm, fun hn _ _ => h.page hn, h.requests, hf ▸ ⟨h.queue, h.stale⟩⟩

/-- An instruction that answers the result of ordinary work. -/
theorem obeys_ordinary (hx : exec i s = .next t) (hu : exec i s = .next u) (h : Ordinary s u)
    (hf : flowOf i = .never) : Obeys i s t := by
  obtain rfl := Host.Outcome.next.inj (hu.symm.trans hx)
  exact h.obeys hf

/-- A jump after ordinary work. -/
theorem obeys_jump {target : Word} (hx : exec i s = .next t) (hu : exec i s = .next (u.jump target)) (h : Ordinary s u)
    (hf : flowOf i = .always) : Obeys i s t := by
  obtain rfl := Host.Outcome.next.inj (hu.symm.trans hx)
  exact ⟨h.xm, fun hn _ _ => h.page hn, h.requests, hf ▸ ⟨rfl, rfl⟩⟩

/-- A branch after ordinary work that stores nothing: `cond` says in the old state what decides it. -/
theorem obeys_branch {taken : Bool} {off : Word} {cond : State → Bool} (hx : exec i s = .next t)
    (hu : exec i s = .next (u.branch taken off)) (h : Ordinary s u) (hst : u.stale = s.stale)
    (hf : flowOf i = .when cond) (hc : cond s = taken) : Obeys i s t := by
  obtain rfl := Host.Outcome.next.inj (hu.symm.trans hx)
  cases taken with
  | false => exact ⟨h.xm, fun hn _ _ => h.page hn, h.requests, by simpa [hf, FollowsFlow, hc] using ⟨h.queue, hst⟩⟩
  | true => exact ⟨h.xm, fun hn _ _ => h.page hn, h.requests, by simp [hf, FollowsFlow, hc, State.branch]⟩

/-- A branch on the CCR. -/
theorem obeys_branchIf {c : Cond} {off : Word} {cond : State → Bool} (hx : exec i s = .next t)
    (hu : exec i s = .next ((s.advance i).branch (condHolds s.ccr c) off)) (hf : flowOf i = .when cond)
    (hc : cond s = condHolds s.ccr c) : Obeys i s t :=
  obeys_branch hx hu ((Ordinary.refl s).advance i) rfl hf hc

/-- A branch that is always taken. -/
theorem obeys_branchAlways {off : Word} (hx : exec i s = .next t)
    (hu : exec i s = .next ((s.advance i).branch true off)) (hf : flowOf i = .always) : Obeys i s t :=
  obeys_jump hx hu ((Ordinary.refl s).advance i) hf

/-- The conditions of the signed branches, which compare N and V (45_branch_jump_call.md R440). -/
theorem condHolds_signed (s : State) :
    condHolds s.ccr .ge = (s.flagN == s.flagV) ∧ condHolds s.ccr .lt = (s.flagN != s.flagV) ∧
      condHolds s.ccr .gt = !(s.flagZ || s.flagN != s.flagV) ∧
      condHolds s.ccr .le = (s.flagZ || s.flagN != s.flagV) := by
  simp only [condHolds, State.flagN, State.flagV, State.flagZ]
  cases getFlag s.ccr .n <;> cases getFlag s.ccr .v <;> simp

/-- A loop primitive (45_branch_jump_call.md R485). -/
theorem obeys_loop {r : LoopReg} {k : Int} {onZero : Bool} {off : BitVec 9} (hx : exec i s = .next t)
    (hu : exec i s = .next ((s.advance i).loopBranch r k onZero off)) (hf : flowOf i = .when (loopTaken k onZero r)) :
    Obeys i s t := by
  refine obeys_branch hx hu ?_ ?_ hf ?_
  · have h := (Ordinary.refl s).advance i
    cases r <;> exact h.registers id
  · simp
  · rw [State.counterZero_addCounter]
    cases r <;> rfl

/-- A call: the return address is stacked after the queue was given up (45_branch_jump_call.md R496). -/
theorem obeys_callTo {target : Word} (hx : exec i s = .next t) (hu : exec i s = .next (u.callTo target))
    (h : Ordinary s u) (hf : flowOf i = .stacks) : Obeys i s t := by
  obtain rfl := Host.Outcome.next.inj (hu.symm.trans hx)
  have hpush := (Ordinary.refl u.refill).push16 u.pc
  exact ⟨hpush.xm ∘ h.xm, fun hn _ _ => (hpush.page (h.config ▸ hn)).trans (h.page hn),
    hpush.requests.trans h.requests, hf ▸ ⟨hpush.queue, ((StaleOnStack.refill u).push16 u.pc).mono (by decide) rfl rfl⟩⟩

/-- SWI and TRAP: an exception whose frame holds the address after the instruction (47_system.md R540, R541). -/
theorem obeys_takeException {vector : Word} (hx : exec i s = .next t)
    (hu : exec i s = .next ((s.advance i).takeException (s.advance i).pc vector false)) (hf : flowOf i = .stacks) :
    Obeys i s t := by
  obtain rfl := Host.Outcome.next.inj (hu.symm.trans hx)
  obtain ⟨hq, hst, hp, hr, hxm⟩ := (s.advance i).takeException_keeps (s.advance i).pc vector false
  exact ⟨fun h => hxm.trans h, fun hn _ _ => hp hn, hr, hf ▸ ⟨hq, hst⟩⟩

/-- CALL stacks the return address and the page (45_branch_jump_call.md R499). -/
theorem obeys_call (ct : CallTarget) (hx : exec (.call ct) s = .next t) : Obeys (.call ct) s t := by
  obtain rfl := Host.Outcome.next.inj hx
  refine ⟨fun h => by simpa using h, fun _ hc _ => absurd rfl (hc ct), by simp, by simp, ?_⟩
  exact (((StaleOnStack.refill _).push16 _).push8 _).mono (by decide) rfl rfl

/-- RTC (45_branch_jump_call.md R500). -/
theorem obeys_rtc (hx : exec .rtc s = .next t) : Obeys .rtc s t := by
  obtain rfl := Host.Outcome.next.inj hx
  exact ⟨fun h => by simpa using h, fun _ _ hc => absurd rfl hc, by simp, rfl, rfl⟩

/-- A load of an effective address, where it is not refused (40_load_store_lea.md R174). -/
theorem obeys_lea {f : IdxDirect} {own : AutoBase} (hx : exec i s = .next t)
    (hu : exec i s = leaInto f own (s.advance i)) (hf : flowOf i = .never) : Obeys i s t := by
  rw [hu, leaInto] at hx
  split at hx
  · cases hx
  · obtain rfl := Host.Outcome.next.inj hx
    exact ((((Ordinary.refl s).advance i).eaDirect f).setAutoBase _ _).obeys hf

end

end Sys2Proof.Machine
end

section
/-!
SUPPORT. The case split over all instructions: every one obeys the rules of `Obeys`.
-/

namespace Sys2Proof.Machine

/-- Every instruction obeys the rules; those that look at the requests, where nothing is requested. -/
theorem exec_obeys {i : Instr} {s t : State} (hl : s.requests = [] ∨ samplesInside i = false)
    (hx : exec i s = .next t) : Obeys i s t := by
  have hs := Ordinary.refl s
  cases i
  -- loads, stores, addresses
  case ldaa o => exact obeys_ordinary hx rfl (((hs.advance _).operand8 o).registers (by simp)) rfl
  case ldab o => exact obeys_ordinary hx rfl (((hs.advance _).operand8 o).registers (by simp)) rfl
  case ldd o => exact obeys_ordinary hx rfl (((hs.advance _).operand16 o).registers (by simp)) rfl
  case ldx o | ldy o | lds o => exact obeys_ordinary hx rfl (((hs.advance _).operand16 o).registers (by simp)) rfl
  case staa m | stab m => exact obeys_ordinary hx rfl ((hs.advance _).store8 m _) rfl
  case std m | stx m | sty m | sts m => exact obeys_ordinary hx rfl ((hs.advance _).store16 m _) rfl
  case leax f | leay f | leas f => exact obeys_lea hx rfl rfl
  case abx | aby | des | ins => exact obeys_ordinary hx rfl (hs.registers id) rfl
  -- moves, transfers, the stack
  case movb src dst =>
    change execMovb src dst s = _ at hx
    unfold execMovb at hx
    split at hx
    · cases hx
    · obtain rfl := Host.Outcome.next.inj hx
      exact ((hs.advance _).moveByte src dst).obeys rfl
  case movw src dst =>
    change execMovw src dst s = _ at hx
    unfold execMovw at hx
    split at hx
    · cases hx
    · obtain rfl := Host.Outcome.next.inj hx
      exact ((hs.advance _).moveWord src dst).obeys rfl
  case tfr r1 r2 => exact obeys_ordinary hx rfl ((hs.advance _).transfer r1 r2) rfl
  case exg r1 r2 => exact obeys_ordinary hx rfl ((hs.advance _).exchange r1 r2) rfl
  case sex r1 r2 => exact obeys_ordinary hx rfl ((hs.advance _).setReg16 r2 _) rfl
  case tpa | tsx | tsy | txs | tys | xgdx | xgdy => exact obeys_ordinary hx rfl (hs.registers id) rfl
  case tab | tba => exact obeys_ordinary hx rfl (hs.registers (by simp)) rfl
  case tap | andcc imm | orcc imm => exact obeys_ordinary hx rfl (hs.registers fun h => by simp [h]) rfl
  case psha | pshb | pshc => exact obeys_ordinary hx rfl ((hs.advance _).push8 _) rfl
  case pshd | pshx | pshy => exact obeys_ordinary hx rfl ((hs.advance _).push16 _) rfl
  case pula | pulb => exact obeys_ordinary hx rfl ((hs.advance _).pull8.registers id) rfl
  case pulc => exact obeys_ordinary hx rfl ((hs.advance _).pull8.registers fun h => by simp at h; simp [h]) rfl
  case puld | pulx | puly => exact obeys_ordinary hx rfl ((hs.advance _).pull16.registers id) rfl
  -- arithmetic and logic on bytes
  case adda o | adca o => exact obeys_ordinary hx rfl ((hs.advance _).aluA o (by simp [addNoCarry, addCarry])) rfl
  case addb o | adcb o => exact obeys_ordinary hx rfl ((hs.advance _).aluB o (by simp [addNoCarry, addCarry])) rfl
  case suba o | sbca o => exact obeys_ordinary hx rfl ((hs.advance _).aluA o (by simp [subNoBorrow, subBorrow])) rfl
  case subb o | sbcb o => exact obeys_ordinary hx rfl ((hs.advance _).aluB o (by simp [subNoBorrow, subBorrow])) rfl
  case cmpa o => exact obeys_ordinary hx rfl ((hs.advance _).testA o (by simp [subNoBorrow])) rfl
  case cmpb o => exact obeys_ordinary hx rfl ((hs.advance _).testB o (by simp [subNoBorrow])) rfl
  case anda o | oraa o | eora o => exact obeys_ordinary hx rfl ((hs.advance _).aluA o (by simp [and8, or8, eor8])) rfl
  case andb o | orab o | eorb o => exact obeys_ordinary hx rfl ((hs.advance _).aluB o (by simp [and8, or8, eor8])) rfl
  case bita o => exact obeys_ordinary hx rfl ((hs.advance _).testA o (by simp [and8])) rfl
  case bitb o => exact obeys_ordinary hx rfl ((hs.advance _).testB o (by simp [and8])) rfl
  case aba | sba | cba => exact obeys_ordinary hx rfl (hs.registers (by simp [addNoCarry, subNoBorrow])) rfl
  case tst m => exact obeys_ordinary hx rfl ((((hs.advance _).eaRmw m).read8 _).setCcr (by simp)) rfl
  case clr m => exact obeys_ordinary hx rfl ((((hs.advance _).eaRmw m).write8 _ _).setCcr (by simp)) rfl
  case tsta | tstb | clra | clrb | daa => exact obeys_ordinary hx rfl (hs.registers (by simp)) rfl
  case inx | iny | dex | dey => exact obeys_ordinary hx rfl (hs.registers (by simp)) rfl
  case clc | cli | clv | sec | sei | sev => exact obeys_ordinary hx rfl (hs.registers (by simp)) rfl
  case inc m | dec m | neg m | com m => exact obeys_ordinary hx rfl ((hs.advance _).rmw m (by simp)) rfl
  case lsl m | asl m | asr m | lsr m | rol m | ror m => exact obeys_ordinary hx rfl ((hs.advance _).rmw m (by simp)) rfl
  case inca | deca | nega | coma => exact obeys_ordinary hx rfl ((hs.advance _).unaryA (by simp)) rfl
  case incb | decb | negb | comb => exact obeys_ordinary hx rfl ((hs.advance _).unaryB (by simp)) rfl
  case lsla | asla | asra | lsra | rola | rora => exact obeys_ordinary hx rfl ((hs.advance _).unaryA (by simp)) rfl
  case lslb | aslb | asrb | lsrb | rolb | rorb => exact obeys_ordinary hx rfl ((hs.advance _).unaryB (by simp)) rfl
  case bset m mask | bclr m mask => exact obeys_ordinary hx rfl ((hs.advance _).modifyBits m _) rfl
  -- arithmetic on words
  case addd o | subd o => exact obeys_ordinary hx rfl ((hs.advance _).aluD o (by simp)) rfl
  case cpd o | cpx o | cpy o | cps o => exact obeys_ordinary hx rfl ((hs.advance _).compare16 o _) rfl
  case lsld | asld | lsrd => exact obeys_ordinary hx rfl ((hs.advance _).unaryD (by simp)) rfl
  case mul => exact obeys_ordinary hx rfl ((hs.advance _).setDFlags (by simp)) rfl
  case emul | emuls => exact obeys_ordinary hx rfl ((hs.advance _).setProduct _) rfl
  case ediv => exact obeys_ordinary hx rfl (hs.advance _).divideExtended rfl
  case edivs => exact obeys_ordinary hx rfl (hs.advance _).divideExtendedSigned rfl
  case fdiv => exact obeys_ordinary hx rfl (hs.advance _).divideFraction rfl
  case idiv => exact obeys_ordinary hx rfl (hs.advance _).divideInteger rfl
  case idivs => exact obeys_ordinary hx rfl (hs.advance _).divideSigned rfl
  case emacs addr => exact obeys_ordinary hx rfl ((hs.advance _).multiplyAccumulate addr) rfl
  case maxa f | mina f => exact obeys_ordinary hx rfl ((hs.advance _).chooseA f _) rfl
  case maxm f | minm f => exact obeys_ordinary hx rfl ((hs.advance _).choose8 f _) rfl
  case emaxd f | emind f => exact obeys_ordinary hx rfl ((hs.advance _).chooseD f _) rfl
  case emaxm f | eminm f => exact obeys_ordinary hx rfl ((hs.advance _).choose16 f _) rfl
  case tbl f => exact obeys_ordinary hx rfl ((hs.advance _).tableLookup8 f) rfl
  case etbl f => exact obeys_ordinary hx rfl ((hs.advance _).tableLookup16 f) rfl
  -- fuzzy logic
  case mem =>
    refine obeys_ordinary hx rfl (((Ordinary.write8 ?_ _ _).registers id).drawFlags (by decide)) rfl
    exact ((((hs.advance _).read8 _).read8 _).read8 _).read8 _
  case rev | revw | wav | wavr =>
    have hq := hl.resolve_right (by decide)
    have h : Undisturbed s t := exec_samplesInside_keeps (survivesSampling_undisturbed s) Undisturbed.of_ordinary
      ⟨hs, hq⟩ rfl hx
    exact h.1.obeys rfl
  -- branches on the CCR
  case bra rel | lbra rel => exact obeys_branchAlways hx rfl rfl
  case brn rel | lbrn rel | bhi rel | lbhi rel | bls rel | lbls rel | bcc rel | lbcc rel | bhs rel | lbhs rel
      | bcs rel | lbcs rel | blo rel | lblo rel | bne rel | lbne rel | beq rel | lbeq rel | bvc rel | lbvc rel
      | bvs rel | lbvs rel | bpl rel | lbpl rel | bmi rel | lbmi rel => exact obeys_branchIf hx rfl rfl rfl
  case bge rel | lbge rel => exact obeys_branchIf hx rfl rfl (condHolds_signed s).1.symm
  case blt rel | lblt rel => exact obeys_branchIf hx rfl rfl (condHolds_signed s).2.1.symm
  case bgt rel | lbgt rel => exact obeys_branchIf hx rfl rfl (condHolds_signed s).2.2.1.symm
  case ble rel | lble rel => exact obeys_branchIf hx rfl rfl (condHolds_signed s).2.2.2.symm
  -- branches on bits and on counters
  case brclr m mask rel | brset m mask rel =>
    exact obeys_branch hx rfl (((hs.advance _).eaBit m).read8 _) (by simp) rfl rfl
  case dbeq r off | dbne r off | ibeq r off | ibne r off | tbeq r off | tbne r off => exact obeys_loop hx rfl rfl
  -- jumps, calls, returns
  case jmp m => exact obeys_jump hx rfl ((hs.advance _).eaRmw m) rfl
  case jsr m => exact obeys_callTo hx rfl ((hs.advance _).eaMem m) rfl
  case bsr rel => exact obeys_callTo hx rfl (hs.advance _) rfl
  case call ct => exact obeys_call ct hx
  case rts => exact obeys_jump hx rfl (hs.advance _).pull16 rfl
  case rtc => exact obeys_rtc hx
  case rti =>
    have hccr := (hs.advance .rti).pull8.setCcr (c := writeCcr s.ccr (s.advance .rti).pull8.1)
      fun h => by simp at h; simp [h]
    exact obeys_jump hx rfl (hccr.pull8.pull8.pull16.pull16.pull16.registers id) rfl
  -- the system
  case swi | trap tn => exact obeys_takeException hx rfl rfl
  case nop => exact obeys_ordinary hx rfl (hs.advance _) rfl
  case wai =>
    exact obeys_ordinary hx rfl (((hs.advance .wai).stackFrame _).withRunState _) rfl
  case stop =>
    change execStop s = _ at hx
    unfold execStop at hx
    simp only at hx
    split at hx
    · obtain rfl := Host.Outcome.next.inj hx
      exact (hs.advance _).obeys rfl
    · obtain rfl := Host.Outcome.next.inj hx
      exact (((hs.advance _).stackFrame _).withRunState _).obeys rfl
  case bgnd =>
    change execBgnd s = _ at hx
    unfold execBgnd at hx
    simp only at hx
    split at hx
    · obtain rfl := Host.Outcome.next.inj hx
      exact ((hs.advance _).withRunState _).obeys rfl
    · obtain rfl := Host.Outcome.next.inj hx
      exact (hs.advance _).obeys rfl

end Sys2Proof.Machine
end

section
/-!
PROOFS. Software, and requests other than a reset and XIRQ, never set the X mask (10_state.md R33).
-/

namespace Sys2Proof.Machine

/-- X is clear, and no coming sampling point shows a reset or an XIRQ request. -/
structure XClear (s : State) : Prop where
  xm : getFlag s.ccr .xm = false
  requests : ∀ r ∈ s.requests, r.noReset ∧ r.xirq = false

/-- An exception sequence other than that of XIRQ changes no X, and no exception sequence uses up a request. -/
theorem State.exceptionSequence_xm (s : State) (rtn v : Word) :
    (s.exceptionSequence rtn v false).requests = s.requests ∧
      getFlag (s.exceptionSequence rtn v false).ccr .xm = getFlag s.ccr .xm := by
  rcases s.exceptionSequence_cases rtn v false with e | e <;> rw [e]
  · obtain ⟨-, -, -, -, hr, hx⟩ := (s.stackFrame rtn).vectorTo_keeps v false
    simpa using And.intro hr hx
  · obtain ⟨-, -, -, -, hr, hx⟩ := s.vectorTo_keeps v false
    exact ⟨hr, hx⟩

/-- What a sampling point shows without a reset or an XIRQ request leads at most to a maskable interrupt
(60_exceptions.md R566, R580). -/
theorem State.eventOf_maskable {s : State} {r : Requests} {e : Event} (hr : r.noReset) (hx : r.xirq = false)
    (h : s.eventOf r = some e) : ∃ v, e = .interrupt v false := by
  obtain ⟨hpin, hclock, hcop, -⟩ := hr
  have hm : s.maskableEvent r = some e := by
    simp only [State.eventOf, hpin, hclock, hcop, hx, Bool.false_eq_true, Bool.false_and, if_false] at h
    cases hm : s.maskableEvent r <;> simp_all
  unfold State.maskableEvent at hm
  simp only at hm
  split at hm
  · cases hm
  · split at hm
    · exact ⟨_, (Option.some.inj hm).symm⟩
    · obtain ⟨v, -, rfl⟩ := Option.map_eq_some_iff.mp hm
      exact ⟨v, rfl⟩

namespace XClear
variable {s t u : State}

/-- Ordinary work keeps X clear. -/
theorem of_ordinary (h : XClear s) (h' : ∀ {r}, Ordinary r s → Ordinary r t) : XClear t :=
  ⟨(h' (.refl s)).xm h.xm, (h' (.refl s)).requests ▸ h.requests⟩

/-- So does whatever keeps X and the requests. -/
theorem of_eq (h : XClear s) (hx : getFlag t.ccr .xm = getFlag s.ccr .xm) (hr : t.requests = s.requests) :
    XClear t := ⟨hx.trans h.xm, hr ▸ h.requests⟩

/-- A sampling point shows no reset and no XIRQ request, nor do the later ones. -/
theorem sample (h : XClear s) : s.sample.1.noReset ∧ s.sample.1.xirq = false ∧ XClear s.sample.2 := by
  cases hq : s.requests with
  | nil =>
    rw [State.sample_nil hq]
    exact ⟨⟨rfl, rfl, rfl, rfl⟩, rfl, h⟩
  | cons r rest =>
    rw [State.sample_cons hq]
    obtain ⟨hr, hx⟩ := h.requests r (by simp [hq])
    exact ⟨hr, hx, h.xm, fun r' hr' => h.requests r' (by simp [hq, hr'])⟩

/-- The event of such a sampling point keeps X clear. -/
theorem takeEvent {e : Event} (h : XClear s) (he : s.sample.2.eventOf s.sample.1 = some e) :
    XClear (s.sample.2.takeEvent e) := by
  obtain ⟨hr, hx, hs⟩ := h.sample
  obtain ⟨v, rfl⟩ := State.eventOf_maskable hr hx he
  obtain ⟨-, -, -, hreq, hxm⟩ := s.sample.2.takeException_keeps s.sample.2.pc v false
  exact hs.of_eq hxm hreq

/-- So does WAV interrupted there (46_fuzzy.md R528). -/
theorem wavInterrupt {e : Event} (h : XClear s) (sums : Sums) (resumeAt : Word)
    (he : s.sample.2.eventOf s.sample.1 = some e) : XClear (s.sample.2.wavInterrupt sums resumeAt e) := by
  obtain ⟨hr, hx, hs⟩ := h.sample
  obtain ⟨v, rfl⟩ := State.eventOf_maskable hr hx he
  have hstack : XClear (((s.sample.2.refill.push16 (sums.sop.extractLsb' 0 16)).push16
      (sums.sop.extractLsb' 16 16)).push16 sums.sow) := hs.of_eq (by simp) (by simp)
  obtain ⟨hreq, hxm⟩ := State.exceptionSequence_xm (((s.sample.2.refill.push16 (sums.sop.extractLsb' 0 16)).push16
      (sums.sop.extractLsb' 16 16)).push16 sums.sow) resumeAt v
  exact hstack.of_eq hxm hreq

theorem survivesSampling : SurvivesSampling XClear where
  uncut _ h := h.sample.1.2.2.2
  quiet _ h := h.sample.2.2
  taken _ _ h he := h.takeEvent he
  weighted _ _ sums pc h he := h.wavInterrupt sums pc he

/-- No instruction sets X. -/
theorem exec {i : Instr} (h : XClear s) (hx : exec i s = .next t) : XClear t := by
  cases hi : samplesInside i with
  | true => exact exec_samplesInside_keeps survivesSampling of_ordinary h hi hx
  | false =>
    have hobeys := exec_obeys (.inr hi) hx
    exact ⟨hobeys.xm h.xm, hobeys.requests ▸ h.requests⟩

end XClear

/-- A step that takes no request stays as it was, or executes an instruction and reads ahead; the fetch and the going on
with an unfinished evaluation leave the CCR and the requests alone. -/
theorem State.perform_quietWork {s t : State} (h : s.quietWork.2.perform s.quietWork.1 = .next t) :
    t = s ∨ ∃ i u v, exec i u = .next v ∧ t = v.readAhead ∧ u.ccr = s.ccr ∧ u.requests = s.requests := by
  cases hrun : s.runState <;> simp only [State.quietWork, hrun] at h
  case waiting => exact .inl (Host.Outcome.next.inj h).symm
  case stopped => exact .inl (Host.Outcome.next.inj h).symm
  case background => cases h
  case running =>
    cases hp : s.progress <;> simp only [hp] at h
    case some k =>
      cases k
      all_goals
        simp only [State.perform] at h
        obtain ⟨v, hv, rfl⟩ := settle_eq_next.mp h
        exact .inr ⟨_, _, v, hv, rfl, rfl, rfl⟩
    case none =>
      cases hd : decode s.fetch.1 <;> simp only [State.fetchWork, hd] at h
      · obtain ⟨v, hv, rfl⟩ := settle_eq_next.mp h
        exact .inr ⟨_, _, v, hv, rfl, by simp, by simp⟩
      · cases h

/-- A step keeps X clear. -/
theorem XClear.step {s t : State} (h : XClear s) (hstep : step s = .next t) : XClear t := by
  obtain ⟨hr, -, hs⟩ := h.sample
  cases he : s.sample.2.eventOf s.sample.1 with
  | some e =>
    rw [step_event hr.2.2.2 he, settle_next] at hstep
    obtain rfl := Host.Outcome.next.inj hstep
    exact (h.takeEvent he).of_eq (by simp) (by simp)
  | none =>
    rw [step_quiet hr.2.2.2 he] at hstep
    obtain rfl | ⟨i, u, v, hv, rfl, hccr, hreq⟩ := State.perform_quietWork hstep
    · exact hs
    · exact ((hs.of_eq (t := u) (by rw [hccr]) hreq).exec hv).of_eq (by simp) (by simp)

/-- Settles O7: every step keeps `XClear`. -/
theorem softwareNeverSetsX : Obligations.SoftwareNeverSetsX := by
  unfold Obligations.SoftwareNeverSetsX
  intro s t hreq hx hstep
  exact (XClear.step ⟨hx, hreq⟩ hstep).xm

/-- Settles O8: PPAGE by the rules that every instruction obeys. -/
theorem onlyCallAndRtcChangePpage : Obligations.OnlyCallAndRtcChangePpage := by
  unfold Obligations.OnlyCallAndRtcChangePpage
  intro i s t hn hq hcall hrtc hx
  exact (exec_obeys (.inl hq) hx).page hn hcall hrtc

end Sys2Proof.Machine
end

section
/-!
PROOFS. The instruction queue (20_memory.md R100 to R102): what a store leaves stale, what a fetch may answer, what
reading ahead keeps and reads, and what gives the queue up.
-/

namespace Sys2Proof.Machine

/-! ## Stale bytes -/

/-- A store to an address that can be written records the value held before (20_memory.md R101). -/
theorem State.stale_write8 {s : State} {a : Word} (v : Byte) (h : s.writable a = true) :
    (s.write8 a v).stale = (a.toNat, s.peek a) :: s.stale := by
  unfold State.writable at h
  unfold State.write8 State.peek
  by_cases hp : s.cfg.ppageAddr = some a
  · simp [hp]
  · have hk : s.kindAt a = .ram := by simpa [hp] using h
    simp [hp, hk]

/-- That value is the first of those its address had, and no other address has a new one. -/
theorem State.staleValues_write8 {s : State} {a : Word} (v : Byte) (h : s.writable a = true) :
    (s.write8 a v).staleValues a = s.peek a :: s.staleValues a ∧
      ∀ b, b ≠ a → (s.write8 a v).staleValues b = s.staleValues b := by
  unfold State.staleValues
  rw [State.stale_write8 v h]
  refine ⟨by simp, fun b hb => ?_⟩
  rw [List.filter_cons_of_neg (by simpa using word_toNat_ne hb.symm)]

/-- A byte of the queue with nothing recorded for its address is fetched as it stands. -/
theorem State.fetch8_fresh {s : State} {a : Word} (v : Byte) (h : s.staleValues a = []) :
    s.fetch8 (a.toNat, v) = (v, s) := by
  unfold State.fetch8
  rw [BitVec.ofNat_toNat, BitVec.setWidth_eq, h]

/-- A choice from a list by an index within it is one of its elements. -/
theorem getD_mod_length_mem {α : Type} (l : List α) (hl : l ≠ []) (n : Nat) (d : α) : l.getD (n % l.length) d ∈ l := by
  have hlt : n % l.length < l.length := Nat.mod_lt _ (List.length_pos_iff.mpr hl)
  rw [List.getD_eq_getElem _ _ hlt]
  exact List.getElem_mem hlt

/-- A fetch answers the byte of the queue, the byte read now, or a value recorded for the address. -/
theorem State.fetch8_choice (s : State) (a : Word) (v : Byte) :
    (s.fetch8 (a.toNat, v)).1 = v ∨ (s.fetch8 (a.toNat, v)).1 = (s.read8 a).1 ∨
      (s.fetch8 (a.toNat, v)).1 ∈ s.staleValues a := by
  cases hv : s.staleValues a with
  | nil => exact .inl (by rw [State.fetch8_fresh v hv])
  | cons old older =>
    have hmem := getD_mod_length_mem (v :: (s.read8 a).1 :: old :: older) (by simp)
      (Config.freeIndex (s.read8 a).2.draws) (s.read8 a).1
    simp only [List.mem_cons] at hmem ⊢
    simpa only [State.fetch8, BitVec.ofNat_toNat, BitVec.setWidth_eq, hv] using hmem

/-! ## Reading ahead -/

/-- What reading ahead keeps or reads of the word at `a` (20_memory.md R100): the queue's two bytes where it holds both,
else, where the word can be read back, what memory holds. -/
structure WordAhead (s : State) (a : Word) (hi lo : Byte) : Prop where
  kept : ∀ h l, s.queued a = some h → s.queued (a + 1) = some l → hi = h ∧ lo = l
  read : s.queued a = none ∨ s.queued (a + 1) = none → s.plain a = true → s.plain (a + 1) = true →
    hi = s.peek a ∧ lo = s.peek (a + 1)

/-- A program word that the queue does not hold whole is read, without a free value where it can be read back. -/
theorem State.programWord_plain {s : State} {a : Word} (hq : s.queued a = none ∨ s.queued (a + 1) = none)
    (h : s.plain a = true) (h' : s.plain (a + 1) = true) :
    s.programWord a = ([(a.toNat, s.peek a), ((a + 1).toNat, s.peek (a + 1))], s) := by
  unfold State.programWord
  split
  · simp_all
  · rw [State.read16_plain h h']
    simp only [State.peek16, BitVec.extractLsb'_append_eq_left, BitVec.extractLsb'_append_eq_right]

/-- The two cells of a program word, however many free values were drawn before. -/
theorem State.programWord_cells (s : State) (n : Nat) (a : Word) :
    ∃ hi lo, (({ s with draws := n } : State).programWord a).1 = [(a.toNat, hi), ((a + 1).toNat, lo)] ∧
      WordAhead s a hi lo := by
  by_cases hq : s.queued a = none ∨ s.queued (a + 1) = none
  · unfold State.programWord
    split
    case h_1 hi lo hhi hlo => exact hq.elim (fun e => nomatch e.symm.trans hhi) fun e => nomatch e.symm.trans hlo
    case h_2 =>
      refine ⟨_, _, rfl, fun h l hhi hlo => ?_, fun _ h h' => ?_⟩
      · exact hq.elim (fun e => nomatch e.symm.trans hhi) fun e => nomatch e.symm.trans hlo
      · rw [State.read16_plain (s := { s with draws := n }) h h', State.peek16, BitVec.extractLsb'_append_eq_left,
          BitVec.extractLsb'_append_eq_right]
        exact ⟨rfl, rfl⟩
  · obtain ⟨⟨hi, hhi⟩, ⟨lo, hlo⟩⟩ : (∃ hi, s.queued a = some hi) ∧ ∃ lo, s.queued (a + 1) = some lo := by
      simpa only [not_or, Option.ne_none_iff_exists'] using hq
    refine ⟨hi, lo, ?_, fun h l hh hl => ?_, fun hn => absurd hn hq⟩
    · have hhi' : ({ s with draws := n } : State).queued a = some hi := hhi
      have hlo' : ({ s with draws := n } : State).queued (a + 1) = some lo := hlo
      simp only [State.programWord, hhi', hlo']
    · exact ⟨Option.some.inj (hhi.symm.trans hh), Option.some.inj (hlo.symm.trans hl)⟩

/-- The six cells of the queue from `b` on that hold the bytes `f`. -/
def queueCells (b : Word) (f : Nat → Byte) : List Host.Cell :=
  (List.range 6).map fun k => ((b + BitVec.ofNat 16 k).toNat, f k)

/-- The six bytes of the queue are at different addresses: each is found at its own. -/
theorem find_queueCells (b : Word) (f : Nat → Byte) {j : Nat} (hj : j < 6) :
    ((queueCells b f).find? fun c => c.1 == (b + BitVec.ofNat 16 j).toNat).map Prod.snd = some (f j) := by
  have hfind : (List.range 6).find? (fun k => (b + BitVec.ofNat 16 k).toNat == (b + BitVec.ofNat 16 j).toNat) =
      some j := by
    refine List.find?_range_eq_some.mpr ⟨beq_self_eq_true _, List.mem_range.mpr hj, fun k hk => ?_⟩
    have hne : b + BitVec.ofNat 16 k ≠ b + BitVec.ofNat 16 j := by
      intro e
      have e' := congrArg BitVec.toNat (BitVec.add_right_inj b |>.mp e)
      simp only [BitVec.toNat_ofNat] at e'
      omega
    simpa using word_toNat_ne hne
  rw [queueCells, List.find?_map]
  exact congrArg (fun o => (o.map fun k => ((b + BitVec.ofNat 16 k).toNat, f k)).map Prod.snd) hfind

/-- After reading ahead the queue holds three words, each kept or read (20_memory.md R100). -/
theorem State.readAhead_queue (s : State) :
    ∃ f, s.readAhead.queue = queueCells s.queueBase f ∧
      ∀ k < 3, WordAhead s (s.queueBase + BitVec.ofNat 16 (2 * k)) (f (2 * k)) (f (2 * k + 1)) := by
  obtain ⟨h0, l0, e0, w0⟩ := s.programWord_cells s.draws s.queueBase
  obtain ⟨h1, l1, e1, w1⟩ := s.programWord_cells (s.programWord s.queueBase).2.draws (s.queueBase + 2)
  rw [← State.programWord_frame] at e1
  obtain ⟨h2, l2, e2, w2⟩ :=
    s.programWord_cells ((s.programWord s.queueBase).2.programWord (s.queueBase + 2)).2.draws (s.queueBase + 2 + 2)
  have hframe : ((s.programWord s.queueBase).2.programWord (s.queueBase + 2)).2 =
      { s with draws := ((s.programWord s.queueBase).2.programWord (s.queueBase + 2)).2.draws } := by
    rw [State.programWord_frame, State.programWord_frame s]
  rw [← hframe] at e2
  refine ⟨fun k => [h0, l0, h1, l1, h2, l2].getD k 0, ?_, fun k hk => ?_⟩
  · simp only [State.readAhead, State.programWords, e0, e1, e2, List.cons_append, List.nil_append]
    simp [queueCells, List.range_succ, BitVec.add_assoc, Nat.mod_eq_of_lt s.queueBase.isLt]
  · match k, hk with
    | 0, _ => simpa using w0
    | 1, _ => simpa using w1
    | 2, _ => simpa [BitVec.add_assoc] using w2

/-- Each of the three words stands in the queue with the bytes kept or read. -/
theorem State.readAhead_queued (s : State) {k : Nat} (hk : k < 3) :
    ∃ hi lo, WordAhead s (s.queueBase + BitVec.ofNat 16 (2 * k)) hi lo ∧
      s.readAhead.queued (s.queueBase + BitVec.ofNat 16 (2 * k)) = some hi ∧
      s.readAhead.queued (s.queueBase + BitVec.ofNat 16 (2 * k) + 1) = some lo := by
  obtain ⟨f, hq, hw⟩ := s.readAhead_queue
  refine ⟨_, _, hw k hk, ?_, ?_⟩
  · rw [State.queued, hq]
    exact find_queueCells _ f (by omega)
  · have e : s.queueBase + BitVec.ofNat 16 (2 * k) + 1 = s.queueBase + BitVec.ofNat 16 (2 * k + 1) := by
      rw [BitVec.ofNat_add, ← BitVec.add_assoc]; rfl
    rw [State.queued, hq, e]
    exact find_queueCells _ f (by omega)

/-- With nothing queued and plain memory the queue holds what memory holds, and no free value is drawn. -/
theorem State.readAhead_plain {s : State} (hq : s.queue = [])
    (h : ∀ k < 6, s.plain (s.queueBase + BitVec.ofNat 16 k) = true) :
    s.readAhead = { s with queue := queueCells s.queueBase fun k => s.peek (s.queueBase + BitVec.ofNat 16 k) } := by
  have hnone (a : Word) : s.queued a = none := by simp [State.queued, hq]
  have hword {a : Word} : s.plain a = true → s.plain (a + 1) = true →
      s.programWord a = ([(a.toNat, s.peek a), ((a + 1).toNat, s.peek (a + 1))], s) :=
    State.programWord_plain (.inl (hnone a))
  have e0 := hword (a := s.queueBase) (by simpa using h 0 (by decide)) (h 1 (by decide))
  have e1 := hword (a := s.queueBase + 2) (h 2 (by decide)) (by simpa [BitVec.add_assoc] using h 3 (by decide))
  have e2 := hword (a := s.queueBase + 2 + 2) (by simpa [BitVec.add_assoc] using h 4 (by decide))
    (by simpa [BitVec.add_assoc] using h 5 (by decide))
  simp only [State.readAhead, State.programWords, e0, e1, e2, List.cons_append, List.nil_append]
  simp [queueCells, List.range_succ, BitVec.add_assoc, Nat.mod_eq_of_lt s.queueBase.isLt]

/-- Settles O13. -/
theorem staleBytesAndTheirRefill : Obligations.StaleBytesAndTheirRefill := by
  unfold Obligations.StaleBytesAndTheirRefill
  refine ⟨fun s a v => State.staleValues_write8 v, fun s a v => State.fetch8_fresh v, State.fetch8_choice,
    fun s => State.readAhead_plain, fun s k hk => ⟨fun hi lo hhi hlo => ?kept, fun hq h h' => ?read⟩,
    fun i s t hq hx => (exec_obeys (.inl hq) hx).flow, fun s v setX => (s.takeException_keeps s.pc v setX).1,
    fun s v => ?reset⟩
  case kept =>
    obtain ⟨hi', lo', hw, e, e'⟩ := s.readAhead_queued hk
    obtain ⟨rfl, rfl⟩ := hw.kept hi lo hhi hlo
    exact ⟨e, e'⟩
  case read =>
    obtain ⟨hi', lo', hw, e, e'⟩ := s.readAhead_queued hk
    obtain ⟨rfl, rfl⟩ := hw.read hq h h'
    exact ⟨e, e'⟩
  case reset =>
    obtain ⟨-, -, -, -, -, hqueue, hstale, -⟩ := (s.drawBytes s.ruleStores).resetSequence_leaves v
    exact ⟨hqueue, hstale⟩

end Sys2Proof.Machine
end

section
/-!
SUPPORT. The arithmetic of the flags: the carries and overflows that the machine computes over integers are the Boolean
forms of the rules (10_state.md R47 to R50), and the other way round.
-/

namespace Sys2Proof.Machine

/-! ## Bits as numbers -/

/-- Bit 7 of a byte tells a value of 128 or more. -/
theorem byte_bit7 (m : Byte) : m.getLsbD 7 = decide (128 ≤ m.toNat) := BitVec.msb_eq_decide m

/-- Bit 3 of a byte tells a low nibble of 8 or more. -/
theorem byte_bit3 (m : Byte) : m.getLsbD 3 = decide (8 ≤ m.toNat % 16) := by
  rw [← BitVec.testBit_toNat, Nat.testBit_eq_decide_div_mod_eq, decide_eq_decide]
  omega

/-- The number of a flag as a carry. -/
theorem bitOf_eq_toNat (v : Bool) : bitOf v = v.toNat := by cases v <;> rfl

/-- The signed overflow of a sum, by the signs of the operands and the result. -/
theorem sum_overflow : ∀ a m r : Bool, (a == m && r != a) = ((a && m && !r) || (!a && !m && r)) := by decide

/-- The signed overflow of a difference, by the signs of the operands and the result. -/
theorem difference_overflow : ∀ a m r : Bool, (a != m && r != a) = ((a && !m && !r) || (!a && m && r)) := by decide

/-! ## Bytes -/

/-- `Add8` adds modulo 256. -/
theorem add8_toNat (ccr a m : Byte) (cin : Bool) :
    (add8 ccr a m cin).1.toNat = (a.toNat + m.toNat + cin.toNat) % 256 := by
  simp only [add8, BitVec.toNat_ofNat, bitOf_eq_toNat]

/-- The carry out of a bit is the majority of the operands' bits and the complement of the result's. -/
theorem add8_flags {t : State} {ccr a m : Byte} {cin : Bool} (h : t.ccr = (add8 ccr a m cin).2) :
    AddFlags8 t a m (add8 ccr a m cin).1 := by
  have hr := add8_toNat ccr a m cin
  have ha := a.isLt
  have hm := m.isLt
  have hc := Bool.toNat_le cin
  refine ⟨⟨?n, ?z, ?v⟩, ?c, ?h⟩ <;> rw [h, getFlag_add8]
  case n => rfl
  case z => rfl
  case v => exact sum_overflow _ _ _
  case c =>
    rw [Bool.eq_iff_iff]
    simp only [↓reduceIte, byte_bit7, bitOf_eq_toNat, hr, Bool.or_eq_true, Bool.and_eq_true, Bool.not_eq_true',
      decide_eq_true_eq, decide_eq_false_iff_not]
    omega
  case h =>
    rw [Bool.eq_iff_iff]
    simp only [reduceCtorEq, ↓reduceIte, byte_bit3, bitOf_eq_toNat, hr, Bool.or_eq_true, Bool.and_eq_true,
      Bool.not_eq_true', decide_eq_true_eq, decide_eq_false_iff_not]
    omega

/-- `Sub8` subtracts modulo 256. -/
theorem sub8_toNat (ccr a m : Byte) (bin : Bool) :
    (sub8 ccr a m bin).1.toNat = (a.toNat + 512 - m.toNat - bin.toNat) % 256 := by
  have ha := a.isLt
  have hm := m.isLt
  have hc := Bool.toNat_le bin
  simp only [sub8, BitVec.toNat_ofInt, bitOf_eq_toNat]
  omega

/-- The borrow into a bit is the majority of the subtrahend's bit, the result's and the complement of the minuend's. -/
theorem sub8_flags {t : State} {ccr a m : Byte} {bin : Bool} (h : t.ccr = (sub8 ccr a m bin).2) :
    SubFlags8 t a m (sub8 ccr a m bin).1 := by
  have hr := sub8_toNat ccr a m bin
  have ha := a.isLt
  have hm := m.isLt
  have hc := Bool.toNat_le bin
  refine ⟨⟨?n, ?z, ?v⟩, ?c⟩ <;> rw [h, getFlag_sub8]
  case n => rfl
  case z => rfl
  case v => exact difference_overflow _ _ _
  case c =>
    rw [Bool.eq_iff_iff]
    simp only [↓reduceIte, byte_bit7, bitOf_eq_toNat, hr, Bool.or_eq_true, Bool.and_eq_true, Bool.not_eq_true',
      decide_eq_true_eq, decide_eq_false_iff_not]
    omega

/-- Without a borrow the difference is that of bit vectors. -/
theorem sub8_fst (ccr a m : Byte) : (sub8 ccr a m false).1 = a - m := by
  have ha := a.isLt
  have hm := m.isLt
  apply BitVec.eq_of_toNat_eq
  rw [sub8_toNat, BitVec.toNat_sub, Bool.toNat_false]
  omega

/-! ## Words -/

/-- `Add16` adds modulo 65536. -/
theorem add16_fst (ccr : Byte) (a m : Word) : (add16 ccr a m).1 = a + m := by
  apply BitVec.eq_of_toNat_eq
  simp [add16]

/-- A difference of words as a number. -/
theorem word_toNat_sub (a m : Word) : (a - m).toNat = (a.toNat + 65536 - m.toNat) % 65536 := by
  have hm := m.isLt
  rw [BitVec.toNat_sub]
  omega

/-- `Sub16` subtracts modulo 65536. -/
theorem sub16_fst (ccr : Byte) (a m : Word) : (sub16 ccr a m).1 = a - m := by
  have ha := a.isLt
  have hm := m.isLt
  apply BitVec.eq_of_toNat_eq
  rw [word_toNat_sub]
  simp only [sub16, BitVec.toNat_ofInt]
  omega

/-- The signed value of a word. -/
theorem word_toInt (a : Word) : a.toInt = if 32768 ≤ a.toNat then (a.toNat : Int) - 65536 else a.toNat := by
  rw [BitVec.toInt_eq_toNat_cond]
  have := a.isLt
  split <;> split <;> omega

/-- The sign of a word. -/
theorem word_msb (a : Word) : a.msb = decide (32768 ≤ a.toNat) := BitVec.msb_eq_decide a

/-- N, Z and V of a sum of words: V tells that the signed sum does not fit (10_state.md R48). -/
theorem add16_flags {t : State} {ccr : Byte} {a m : Word} (h : t.ccr = (add16 ccr a m).2) :
    FlagsNZV16 t (a + m) (decide (a.toInt + m.toInt < -32768 ∨ 32767 < a.toInt + m.toInt)) ∧
      getFlag t.ccr .c = decide (65536 ≤ a.toNat + m.toNat) := by
  have ha := a.isLt
  have hm := m.isLt
  refine ⟨⟨?n, ?z, ?v⟩, ?c⟩ <;> rw [h, getFlag_add16]
  case n => rw [add16_fst]; rfl
  case z => rw [add16_fst]; rfl
  case v =>
    refine (sum_overflow _ _ _).trans ?_
    rw [Bool.eq_iff_iff]
    simp only [add16_fst, word_msb, word_toInt, BitVec.toNat_add, Bool.or_eq_true, Bool.and_eq_true,
      Bool.not_eq_true', decide_eq_true_eq, decide_eq_false_iff_not]
    split <;> split <;> omega
  case c => rfl

/-- The flags of a difference of words (10_state.md R50). -/
theorem sub16_flags {t : State} {ccr : Byte} {a m : Word} (h : t.ccr = (sub16 ccr a m).2) :
    SubFlags16 t a m (a - m) := by
  have ha := a.isLt
  have hm := m.isLt
  refine ⟨⟨?n, ?z, ?v⟩, ?c⟩ <;> rw [h, getFlag_sub16]
  case n => rw [sub16_fst]; rfl
  case z => rw [sub16_fst]; rfl
  case v =>
    refine (difference_overflow _ _ _).trans ?_
    rw [Bool.eq_iff_iff]
    simp only [sub16_fst, word_msb, word_toInt, BitVec.toNat_sub, Bool.or_eq_true, Bool.and_eq_true,
      Bool.not_eq_true', decide_eq_true_eq, decide_eq_false_iff_not]
    split <;> split <;> omega
  case c => simp

end Sys2Proof.Machine
end

section
/-!
PROOFS. Arithmetic and logic on the accumulators (42_arithmetic.md R251 to R272, 43_logic_bit_shift.md R320 to R327): an
operand is read, one operation on data answers a result and flags, and nothing else changes.
-/

namespace Sys2Proof.Machine

/-! ## Frames of register writes -/

/-- A change of registers and flags alone, register by register. -/
theorem Effect.of_registers {s t : State} {regs : List RegName} {flags : List Flag} (ha : .a ∉ regs → t.a = s.a)
    (hb : .b ∉ regs → t.b = s.b) (hx : .x ∉ regs → t.x = s.x) (hy : .y ∉ regs → t.y = s.y)
    (hsp : .sp ∉ regs → t.sp = s.sp) (hf : ∀ f, f ∉ flags → getFlag t.ccr f = getFlag s.ccr f)
    (hm : t.mem = s.mem := by rfl) (hp : t.ppage = s.ppage := by rfl) (hrun : t.runState = s.runState := by rfl)
    (hpr : t.progress = s.progress := by rfl) (hq : t.requests = s.requests := by rfl)
    (hc : t.cfg = s.cfg := by rfl) : Effect s t regs flags [] := by
  refine Effect.quiet (fun r hr => ?_) hf hm hp hrun hpr hq hc
  cases r with
  | a => exact congrArg (BitVec.zeroExtend 16) (ha hr)
  | b => exact congrArg (BitVec.zeroExtend 16) (hb hr)
  | x => exact hx hr
  | y => exact hy hr
  | sp => exact hsp hr

/-! ## One accumulator or the other -/

/-- A write of an accumulator with the CCR that goes with it. -/
def State.setAcc (s : State) (r : Acc) (p : Byte × Byte) : State :=
  match r with
  | .a => s.setA p
  | .b => s.setB p

@[simp] theorem State.setAcc_acc (s : State) (r : Acc) (p : Byte × Byte) : (s.setAcc r p).acc r = p.1 := by
  cases r <;> rfl

@[simp] theorem State.setAcc_ccr (s : State) (r : Acc) (p : Byte × Byte) : (s.setAcc r p).ccr = p.2 := by
  cases r <;> rfl

@[simp] theorem State.setAcc_pc (s : State) (r : Acc) (p : Byte × Byte) : (s.setAcc r p).pc = s.pc := by
  cases r <;> rfl

/-- Writing an accumulator changes it and flags alone. -/
theorem State.effect_setAcc (s : State) (r : Acc) (p : Byte × Byte) (flags : List Flag)
    (h : ∀ f, f ∉ flags → getFlag p.2 f = getFlag s.ccr f) : Effect s (s.setAcc r p) [r.name] flags [] := by
  cases r with
  | a => exact .of_registers (by simp [Acc.name]) (fun _ => rfl) (fun _ => rfl) (fun _ => rfl) (fun _ => rfl) h
  | b => exact .of_registers (fun _ => rfl) (by simp [Acc.name]) (fun _ => rfl) (fun _ => rfl) (fun _ => rfl) h

@[simp] theorem State.advance_acc (s : State) (i : Instr) (r : Acc) : (s.advance i).acc r = s.acc r := by
  cases r <;> rfl

/-- Fetching an operand leaves the accumulators as they are: they are no automatic base (30_encoding.md R122). -/
@[simp] theorem State.operand8_acc (s : State) (o : Operand8) (r : Acc) : (s.operand8 o).2.acc r = s.acc r := by
  cases r <;> simp [State.acc]

/-- Fetching a word operand leaves D as it is. -/
@[simp] theorem State.operand16_d (s : State) (o : Operand16) : (s.operand16 o).2.d = s.d := by simp [State.d]

@[simp] theorem State.advance_d (s : State) (i : Instr) : (s.advance i).d = s.d := rfl

section
variable {i : Instr} {s : State} {r : Acc} {flags : List Flag} {post : State → Prop}

/-- An operation on an accumulator and an operand, with the accumulator as destination. -/
theorem accumulate_completes {o : Operand8} {op : Byte → Byte → Byte → Byte × Byte}
    (hx : exec i s = .next ((s.advance i).with8 o fun m t => t.setAcc r (op t.ccr (t.acc r) m)))
    (hf : ∀ c a m f, f ∉ flags → getFlag (op c a m).2 f = getFlag c f)
    (hp : ∀ t : State, t.acc r = (op s.ccr (s.acc r) (s.fetched8 i o)).1 →
      t.ccr = (op s.ccr (s.acc r) (s.fetched8 i o)).2 → post t) :
    CompletesVia i s ((s.advance i).operand8 o).2 [r.name] (auto8 o) flags [] post :=
  with8_completes hx (by simp) (fun m u => u.effect_setAcc r _ flags (hf _ _ m)) (hp _ (by simp) (by simp))

/-- An operation on an accumulator and an operand, for its flags alone. -/
theorem check_completes {o : Operand8} {op : Byte → Byte → Byte → Byte × Byte}
    (hx : exec i s = .next ((s.advance i).with8 o fun m t => t.setCcr (op t.ccr (t.acc r) m).2))
    (hf : ∀ c a m f, f ∉ flags → getFlag (op c a m).2 f = getFlag c f)
    (hp : ∀ t : State, t.ccr = (op s.ccr (s.acc r) (s.fetched8 i o)).2 → post t) :
    CompletesVia i s ((s.advance i).operand8 o).2 [] (auto8 o) flags [] post :=
  with8_completes hx (by simp) (fun m u => u.effect_setCcr _ [] flags (hf _ _ m)) (hp _ (by simp))

/-- An operation on registers alone, with an accumulator as destination. -/
theorem setAcc_completes {p : Byte × Byte} (hx : exec i s = .next ((s.advance i).setAcc r p))
    (hf : ∀ f, f ∉ flags → getFlag p.2 f = getFlag s.ccr f)
    (hp : ∀ t : State, t.acc r = p.1 → t.ccr = p.2 → post t) : Completes i s [r.name] flags [] post :=
  ⟨_, hx, by simp [State.pcNext], (s.effect_advance i _ _).after rfl ((s.advance i).effect_setAcc r p flags hf),
    hp _ (by simp) (by simp)⟩

/-- An operation on registers alone, for its flags. -/
theorem setCcr_completes {c : Byte} (hx : exec i s = .next ((s.advance i).setCcr c))
    (hf : ∀ f, f ∉ flags → getFlag c f = getFlag s.ccr f) (hp : ∀ t : State, t.ccr = c → post t) :
    Completes i s [] flags [] post :=
  ⟨_, hx, rfl, (s.effect_advance i _ _).after rfl ((s.advance i).effect_setCcr c [] flags hf), hp _ rfl⟩

/-- Writing D changes A, B and flags alone. -/
theorem State.effect_setDFlags (s : State) (p : Word × Byte) (flags : List Flag)
    (h : ∀ f, f ∉ flags → getFlag p.2 f = getFlag s.ccr f) : Effect s (s.setDFlags p) [.a, .b] flags [] :=
  .of_registers (by simp) (by simp) (fun _ => rfl) (fun _ => rfl) (fun _ => rfl) h

/-- An operation on D and an operand, with D as destination. -/
theorem accumulateD_completes {o : Operand16} {op : Byte → Word → Word → Word × Byte}
    (hx : exec i s = .next ((s.advance i).aluD o op))
    (hf : ∀ c a m f, f ∉ flags → getFlag (op c a m).2 f = getFlag c f)
    (hp : ∀ t : State, t.d = (op s.ccr s.d (s.fetched16 i o)).1 → t.ccr = (op s.ccr s.d (s.fetched16 i o)).2 →
      post t) : CompletesVia i s ((s.advance i).operand16 o).2 [.a, .b] (auto16 o) flags [] post :=
  with16_completes hx (by simp) (fun m u => u.effect_setDFlags _ flags (hf _ _ m)) (hp _ (by simp) (by simp))

end

/-! ## Additions -/

/-- An addition with the carry-in that `cin` takes from the CCR (42_arithmetic.md R252). -/
theorem addRule8_of_exec {make : Operand8 → Instr} {r : Acc} {cin : Byte → Bool}
    (hx : ∀ o s, exec (make o) s = .next ((s.advance (make o)).with8 o fun m t =>
      t.setAcc r (add8 t.ccr (t.acc r) m (cin t.ccr)))) : AddRule8 make r fun s => cin s.ccr := by
  intro o s m
  refine accumulate_completes (op := fun c a m => add8 c a m (cin c)) (hx o s) (by simp +contextual) fun t ht hc => ?_
  rw [ht]
  exact ⟨add8_toNat .., add8_flags hc⟩

/-- Settles O27. -/
theorem additionsToAccumulators : Obligations.AdditionsToAccumulators := by
  unfold Obligations.AdditionsToAccumulators
  refine ⟨addRule8_of_exec (cin := fun _ => false) fun _ _ => rfl,
    addRule8_of_exec (cin := fun _ => false) fun _ _ => rfl,
    addRule8_of_exec (cin := (getFlag · .c)) fun _ _ => rfl, addRule8_of_exec (cin := (getFlag · .c)) fun _ _ => rfl,
    fun s => ?_⟩
  refine setAcc_completes (r := .a) (p := add8 s.ccr s.a s.b false) rfl (by simp +contextual) fun t ht hc => ?_
  rw [show t.a = _ from ht]
  exact ⟨add8_toNat .., add8_flags hc⟩

/-! ## Subtractions and compares of bytes -/

/-- A subtraction with the borrow-in that `bin` takes from the CCR (42_arithmetic.md R258). -/
theorem subRule8_of_exec {make : Operand8 → Instr} {r : Acc} {bin : Byte → Bool}
    (hx : ∀ o s, exec (make o) s = .next ((s.advance (make o)).with8 o fun m t =>
      t.setAcc r (sub8 t.ccr (t.acc r) m (bin t.ccr)))) : SubRule8 make r fun s => bin s.ccr := by
  intro o s m
  refine accumulate_completes (op := fun c a m => sub8 c a m (bin c)) (hx o s) (by simp +contextual) fun t ht hc => ?_
  rw [ht]
  exact ⟨sub8_toNat .., sub8_flags hc⟩

/-- A compare of a byte (42_arithmetic.md R264). -/
theorem compareRule8_of_exec {make : Operand8 → Instr} {r : Acc}
    (hx : ∀ o s, exec (make o) s = .next ((s.advance (make o)).with8 o fun m t =>
      t.setCcr (sub8 t.ccr (t.acc r) m false).2)) : CompareRule8 make r := by
  intro o s m
  refine check_completes (op := fun c a m => sub8 c a m false) (hx o s) (by simp +contextual) fun t hc => ?_
  rw [← sub8_fst s.ccr]
  exact sub8_flags hc

/-- Settles O28. -/
theorem subtractionsAndCompares8 : Obligations.SubtractionsAndCompares8 := by
  unfold Obligations.SubtractionsAndCompares8
  refine ⟨subRule8_of_exec (bin := fun _ => false) fun _ _ => rfl,
    subRule8_of_exec (bin := fun _ => false) fun _ _ => rfl,
    subRule8_of_exec (bin := (getFlag · .c)) fun _ _ => rfl, subRule8_of_exec (bin := (getFlag · .c)) fun _ _ => rfl,
    compareRule8_of_exec fun _ _ => rfl, compareRule8_of_exec fun _ _ => rfl, fun s => ?sba, fun s => ?cba⟩
  case sba =>
    refine setAcc_completes (r := .a) (p := sub8 s.ccr s.a s.b false) rfl (by simp +contextual) fun t ht hc => ?_
    have hb := s.b.isLt
    rw [show t.a = _ from ht]
    refine ⟨?_, sub8_flags hc⟩
    rw [sub8_toNat, Bool.toNat_false]
    omega
  case cba =>
    refine setCcr_completes (c := (sub8 s.ccr s.a s.b false).2) rfl (by simp +contextual) fun t hc => ?_
    rw [← sub8_fst s.ccr]
    exact sub8_flags hc

/-! ## Words -/

/-- A compare of a word with the register as it stands after the operand access (30_encoding.md R130). -/
theorem compareRule16_of_exec {make : Operand16 → Instr} {value : State → Word}
    (hx : ∀ o s, exec (make o) s = .next ((s.advance (make o)).compare16 o value)) : CompareRule16 make value := by
  intro o s p
  refine with16_completes (hx o s) (by simp) (fun m u => u.effect_setCcr _ [] _ (by simp +contextual)) ?_
  exact sub16_flags rfl

/-- Settles O29. -/
theorem arithmetic16 : Obligations.Arithmetic16 := by
  unfold Obligations.Arithmetic16
  refine ⟨?addd, ?subd, compareRule16_of_exec fun _ _ => rfl,
    compareRule16_of_exec fun _ _ => rfl, compareRule16_of_exec fun _ _ => rfl, compareRule16_of_exec fun _ _ => rfl⟩
  case addd =>
    intro o s m
    refine accumulateD_completes rfl (by simp +contextual) fun t ht hc => ?_
    rw [ht, add16_fst]
    exact ⟨BitVec.toNat_add .., add16_flags hc⟩
  case subd =>
    intro o s m
    refine accumulateD_completes rfl (by simp +contextual) fun t ht hc => ?_
    rw [ht, sub16_fst]
    exact ⟨word_toNat_sub .., sub16_flags hc⟩

/-! ## Logic and tests -/

/-- A logic operation, bit by bit (43_logic_bit_shift.md R320). -/
theorem logicRule_of_exec {make : Operand8 → Instr} {r : Acc} {f : Byte → Byte → Byte} {op : Bool → Bool → Bool}
    (hx : ∀ o s, exec (make o) s = .next ((s.advance (make o)).with8 o fun m t =>
      t.setAcc r (f (t.acc r) m, logicFlags8 t.ccr (f (t.acc r) m))))
    (hbit : ∀ a m k, k < 8 → (f a m).getLsbD k = op (a.getLsbD k) (m.getLsbD k)) : LogicRule make r op := by
  intro o s m
  refine accumulate_completes (op := fun c a m => (f a m, logicFlags8 c (f a m))) (hx o s) (by simp +contextual)
    fun t ht hc => ?_
  rw [ht]
  exact ⟨hbit _ _, flagsNZV8_logic _ _ _ hc⟩

/-- Settles O33. -/
theorem logicOnAccumulators : Obligations.LogicOnAccumulators := by
  unfold Obligations.LogicOnAccumulators
  have hand (a m : Byte) (k : Nat) (_ : k < 8) : (a &&& m).getLsbD k = (a.getLsbD k && m.getLsbD k) :=
    BitVec.getLsbD_and
  have hor (a m : Byte) (k : Nat) (_ : k < 8) : (a ||| m).getLsbD k = (a.getLsbD k || m.getLsbD k) :=
    BitVec.getLsbD_or
  have heor (a m : Byte) (k : Nat) (_ : k < 8) : (a ^^^ m).getLsbD k = Bool.xor (a.getLsbD k) (m.getLsbD k) :=
    BitVec.getLsbD_xor
  exact ⟨logicRule_of_exec (fun _ _ => rfl) hand, logicRule_of_exec (fun _ _ => rfl) hand,
    logicRule_of_exec (fun _ _ => rfl) hor, logicRule_of_exec (fun _ _ => rfl) hor,
    logicRule_of_exec (fun _ _ => rfl) heor, logicRule_of_exec (fun _ _ => rfl) heor⟩

/-- A bit test (43_logic_bit_shift.md R326). -/
theorem bitTestRule_of_exec {make : Operand8 → Instr} {r : Acc}
    (hx : ∀ o s, exec (make o) s = .next ((s.advance (make o)).with8 o fun m t =>
      t.setCcr (and8 t.ccr (t.acc r) m).2)) : BitTestRule make r := by
  intro o s m
  exact check_completes (op := and8) (hx o s) (by simp +contextual [and8]) fun t hc => flagsNZV8_logic _ _ _ hc

/-- The flags of a test of a byte (10_state.md R53). -/
theorem tstFlags8_flags {t : State} {ccr m : Byte} (h : t.ccr = tstFlags8 ccr m) :
    FlagsNZV8 t m false ∧ getFlag t.ccr .c = false := by
  refine ⟨⟨?n, ?z, ?v⟩, ?c⟩ <;> rw [h, getFlag_tstFlags8] <;> rfl

/-- Settles O30. -/
theorem testsOfBytes : Obligations.TestsOfBytes := by
  unfold Obligations.TestsOfBytes
  refine ⟨?tst, fun s => ?tsta, fun s => ?tstb, bitTestRule_of_exec fun _ _ => rfl,
    bitTestRule_of_exec fun _ _ => rfl⟩
  case tst =>
    intro m s p
    have hea : Effect s p.2 (rmwAuto m) [] [] := (s.effect_advance _ _ _).after rfl (State.effect_eaRmw _ m)
    have hread := p.2.effect_read8 p.1 (rmwAuto m) [.n, .z, .v, .c]
    have hset : Effect (p.2.read8 p.1).2 ((p.2.read8 p.1).2.setCcr (tstFlags8 (p.2.read8 p.1).2.ccr (p.2.read8 p.1).1))
        [] [.n, .z, .v, .c] [] := State.effect_setCcr _ _ _ _ (by simp +contextual)
    refine ⟨_, rfl, ?_, ((hea.mono (fun _ h => h) (by simp)).andThen hread).andThen (hset.mono (by simp) fun _ h => h),
      fun r _ => (hset.registers r (by simp)).trans ((p.2.effect_read8 p.1 [] []).registers r (by simp)),
      tstFlags8_flags rfl⟩
    simp [State.pcNext]
  case tsta => exact setCcr_completes rfl (by simp +contextual) fun t hc => tstFlags8_flags hc
  case tstb => exact setCcr_completes rfl (by simp +contextual) fun t hc => tstFlags8_flags hc

end Sys2Proof.Machine
end

section
/-!
PROOFS. One-operand instructions on memory and on the accumulators (42_arithmetic.md R274 to R286,
43_logic_bit_shift.md R328 to R367): one byte is read, one operation on data answers the byte written back and the
flags.
-/

namespace Sys2Proof.Machine

/-! ## The operations on data -/

/-- The machine's operation on a byte does what the rule says over integers and single bits. -/
structure Implements (op : Byte → Byte → Byte × Byte) (rule : UnaryOp) : Prop where
  result : ∀ ccr m, (op ccr m).1 = rule.result m (getFlag ccr .c)
  n : ∀ ccr m, getFlag (op ccr m).2 .n = (op ccr m).1.msb
  z : ∀ ccr m, getFlag (op ccr m).2 .z = ((op ccr m).1 == 0)
  v : ∀ ccr m, getFlag (op ccr m).2 .v = rule.v m (op ccr m).1
  c : ∀ ccr m, getFlag (op ccr m).2 .c = rule.c m (getFlag ccr .c)
  others : ∀ ccr m f, f ∉ [Flag.n, .z, .v, .c] → getFlag (op ccr m).2 f = getFlag ccr f

/-- The number of two bit vectors put together. -/
theorem toNat_append_eq_add {w v : Nat} (x : BitVec w) (y : BitVec v) :
    (x ++ y).toNat = x.toNat * 2 ^ v + y.toNat := by
  rw [BitVec.toNat_append, ← Nat.shiftLeft_add_eq_or_of_lt y.isLt, Nat.shiftLeft_eq]

/-- INC (10_state.md R52). -/
theorem inc8_implements : Implements inc8 incOp where
  result ccr m := by
    apply BitVec.eq_of_toNat_eq
    simp [inc8, incOp]
  n ccr m := by simp [inc8]
  z ccr m := by simp [inc8]
  v ccr m := by
    rw [getFlag_inc8, Bool.eq_iff_iff]
    simp [incOp, ← BitVec.toNat_inj]
  c ccr m := by simp [incOp]
  others ccr m f := by simp +contextual

/-- DEC (10_state.md R52). -/
theorem dec8_implements : Implements dec8 decOp where
  result ccr m := by
    apply BitVec.eq_of_toNat_eq
    simp [dec8, decOp, BitVec.toNat_sub]
    omega
  n ccr m := by simp [dec8]
  z ccr m := by simp [dec8]
  v ccr m := by
    rw [getFlag_dec8, Bool.eq_iff_iff]
    simp [decOp, ← BitVec.toNat_inj]
  c ccr m := by simp [decOp]
  others ccr m f := by simp +contextual

/-- NEG (10_state.md R53). -/
theorem neg8_implements : Implements neg8 negOp where
  result ccr m := by
    apply BitVec.eq_of_toNat_eq
    simp [neg8, negOp]
  n ccr m := by simp [neg8]
  z ccr m := by simp [neg8]
  v ccr m := by
    rw [getFlag_neg8, Bool.eq_iff_iff]
    simp [neg8, negOp, ← BitVec.toNat_inj]
  c ccr m := by
    have hm := m.isLt
    rw [getFlag_neg8, Bool.eq_iff_iff]
    simp [negOp, ← BitVec.toNat_inj]
    omega
  others ccr m f := by simp +contextual

/-- COM (10_state.md R53). -/
theorem com8_implements : Implements com8 comOp where
  result ccr m := by
    have hm := m.isLt
    apply BitVec.eq_of_toNat_eq
    simp [com8, comOp]
    omega
  n ccr m := by simp [com8]
  z ccr m := by simp [com8]
  v ccr m := by simp [comOp]
  c ccr m := by simp [comOp]
  others ccr m f := by simp +contextual

/-- A shift to the left as a number: bit 7 leaves, `b` enters at bit 0 (43_logic_bit_shift.md R350). -/
theorem shiftLeft_byte (m : Byte) (b : Bool) :
    (m.extractLsb' 0 7 ++ BitVec.ofBool b : Byte) = BitVec.ofNat 8 (2 * m.toNat + b.toNat) := by
  apply BitVec.eq_of_toNat_eq
  have hb := Bool.toNat_le b
  rw [toNat_append_eq_add, BitVec.extractLsb'_toNat, BitVec.toNat_ofBool, BitVec.toNat_ofNat, Nat.shiftRight_zero]
  omega

/-- A shift to the right as a number: bit 0 leaves, `b` enters at bit 7 (43_logic_bit_shift.md R350). -/
theorem shiftRight_byte (m : Byte) (b : Bool) :
    (BitVec.ofBool b ++ m.extractLsb' 1 7 : Byte) = BitVec.ofNat 8 (m.toNat / 2 + 128 * b.toNat) := by
  apply BitVec.eq_of_toNat_eq
  have hb := Bool.toNat_le b
  have hm := m.isLt
  rw [toNat_append_eq_add, BitVec.extractLsb'_toNat, BitVec.toNat_ofBool, BitVec.toNat_ofNat, Nat.shiftRight_eq_div_pow]
  omega

/-- A shift to the left, given what enters at bit 0. -/
theorem implements_left {op : Byte → Byte → Byte × Byte} {inBit : Bool → Bool}
    (hr : ∀ ccr m, (op ccr m).1 = m.extractLsb' 0 7 ++ BitVec.ofBool (inBit (getFlag ccr .c)))
    (hf : ∀ ccr m f, getFlag (op ccr m).2 f = getFlag (shiftFlags8 ccr (op ccr m).1 m.msb) f) :
    Implements op (leftOp inBit) where
  result ccr m := (hr ccr m).trans (shiftLeft_byte m _)
  n ccr m := by simp [hf]
  z ccr m := by simp [hf]
  v ccr m := by rw [hf, getFlag_shiftFlags8]; rfl
  c ccr m := by rw [hf, getFlag_shiftFlags8]; rfl
  others ccr m f := by rw [hf]; simp +contextual

/-- A shift to the right, given what enters at bit 7. -/
theorem implements_right {op : Byte → Byte → Byte × Byte} {inBit : Byte → Bool → Bool}
    (hr : ∀ ccr m, (op ccr m).1 = BitVec.ofBool (inBit m (getFlag ccr .c)) ++ m.extractLsb' 1 7)
    (hf : ∀ ccr m f, getFlag (op ccr m).2 f = getFlag (shiftFlags8 ccr (op ccr m).1 (m.getLsbD 0)) f) :
    Implements op (rightOp inBit) where
  result ccr m := (hr ccr m).trans (shiftRight_byte m _)
  n ccr m := by simp [hf]
  z ccr m := by simp [hf]
  v ccr m := by rw [hf, getFlag_shiftFlags8]; rfl
  c ccr m := by rw [hf, getFlag_shiftFlags8]; rfl
  others ccr m f := by rw [hf]; simp +contextual

/-- Bit 7 alone, as ASR keeps it. -/
theorem extract_bit7 (m : Byte) : m.extractLsb' 7 1 = BitVec.ofBool (m.getLsbD 7) := by
  apply BitVec.eq_of_getLsbD_eq
  intro k hk
  obtain rfl : k = 0 := by omega
  simp

/-! ## The instructions -/

section
variable {rule : UnaryOp} {op : Byte → Byte → Byte × Byte}

/-- What the flags of an operation on a byte say. -/
theorem Implements.flags (h : Implements op rule) {t : State} {ccr m : Byte} (ht : t.ccr = (op ccr m).2) :
    FlagsNZV8 t (rule.result m (getFlag ccr .c)) (rule.v m (rule.result m (getFlag ccr .c))) ∧
      getFlag t.ccr .c = rule.c m (getFlag ccr .c) := by
  rw [← h.result]
  refine ⟨⟨?n, ?z, ?v⟩, ?c⟩ <;> rw [ht]
  case n => exact h.n ccr m
  case z => exact h.z ccr m
  case v => exact h.v ccr m
  case c => exact h.c ccr m

/-- An instruction that reads and writes back one byte at an address it has formed (42_arithmetic.md R250). -/
theorem modifyAt_completes {i : Instr} {s u : State} {ea : Word} {auto : List RegName} {flags : List Flag}
    {post : State → Prop} (hx : exec i s = .next (u.modifyAt ea op)) (hu : Effect s u auto [] [])
    (hm : u.mem = s.mem) (hpc : u.pc = s.pcNext i) (hccr : u.ccr = s.ccr)
    (hf : ∀ c m f, f ∉ flags → getFlag (op c m).2 f = getFlag c f)
    (hp : ∀ t : State, t.ccr = (op s.ccr (u.read8 ea).1).2 → post t) :
    CompletesVia i s u [] auto flags [(ea, (op s.ccr (u.read8 ea).1).1)] post := by
  have heff := u.effect_modifyAt ea op auto flags hf
  rw [hccr] at heff
  refine ⟨_, hx, by simp [State.modifyAt, hpc], (hu.mono (fun _ h => h) (by simp)).after hm heff,
    fun r _ => u.modifyAt_reg ea op r, hp _ (by simp [State.modifyAt, hccr])⟩

/-- A one-operand instruction on memory. -/
theorem unaryMemRule_of_exec (h : Implements op rule) {make : RmwOperand → Instr}
    (hx : ∀ m s, exec (make m) s = .next ((s.advance (make m)).rmw m op)) : UnaryMemRule make rule := by
  intro m s p v c r
  have hr : (op s.ccr v).1 = r := h.result s.ccr v
  rw [← hr]
  refine modifyAt_completes (hx m s) ((s.effect_advance _ _ _).after rfl (State.effect_eaRmw _ m)) (by simp [p])
    (by simp [p, State.pcNext]) (by simp [p]) h.others fun t ht => ?_
  rw [hr]
  exact h.flags ht

/-- A one-operand instruction on an accumulator. -/
theorem unaryAccRule_of_exec (h : Implements op rule) {i : Instr} {r : Acc}
    (hx : ∀ s, exec i s = .next ((s.advance i).setAcc r (op s.ccr (s.acc r)))) : UnaryAccRule i r rule := by
  intro s v c
  exact setAcc_completes (hx s) (h.others s.ccr v) fun t ht hc => ⟨ht.trans (h.result s.ccr v), h.flags hc⟩

/-- The three forms of a one-operand instruction. -/
theorem unaryRule_of_exec (h : Implements op rule) {make : RmwOperand → Instr} {onA onB : Instr}
    (hm : ∀ m s, exec (make m) s = .next ((s.advance (make m)).rmw m op))
    (ha : ∀ s, exec onA s = .next ((s.advance onA).setAcc .a (op s.ccr s.a)))
    (hb : ∀ s, exec onB s = .next ((s.advance onB).setAcc .b (op s.ccr s.b))) : UnaryRule make onA onB rule :=
  ⟨unaryMemRule_of_exec h hm, unaryAccRule_of_exec h ha, unaryAccRule_of_exec h hb⟩

end

/-- Settles O32. -/
theorem incrementDecrementNegateComplement : Obligations.IncrementDecrementNegateComplement := by
  unfold Obligations.IncrementDecrementNegateComplement
  have hinc (v : Word) : (v + 1).toNat = (v.toNat + 1) % 65536 := BitVec.toNat_add v 1
  have hdec (v : Word) : (v - 1).toNat = (v.toNat + 65535) % 65536 := word_toNat_sub v 1
  have hzero (v : Word) : (v == 0) = decide (v.toNat = 0) := by
    rw [Bool.eq_iff_iff, beq_iff_eq, decide_eq_true_eq, ← BitVec.toNat_inj]
    rfl
  refine ⟨unaryRule_of_exec inc8_implements (fun _ _ => rfl) (fun _ => rfl) fun _ => rfl,
    unaryRule_of_exec dec8_implements (fun _ _ => rfl) (fun _ => rfl) fun _ => rfl,
    unaryRule_of_exec neg8_implements (fun _ _ => rfl) (fun _ => rfl) fun _ => rfl,
    unaryRule_of_exec com8_implements (fun _ _ => rfl) (fun _ => rfl) fun _ => rfl,
    fun s => ?inx, fun s => ?iny, fun s => ?dex, fun s => ?dey⟩
  case inx => exact ⟨_, rfl, rfl, by apply Effect.of_registers <;> simp +contextual, hinc _,
    (getFlag_setFlag ..).trans (hzero _)⟩
  case iny => exact ⟨_, rfl, rfl, by apply Effect.of_registers <;> simp +contextual, hinc _,
    (getFlag_setFlag ..).trans (hzero _)⟩
  case dex => exact ⟨_, rfl, rfl, by apply Effect.of_registers <;> simp +contextual, hdec _,
    (getFlag_setFlag ..).trans (hzero _)⟩
  case dey => exact ⟨_, rfl, rfl, by apply Effect.of_registers <;> simp +contextual, hdec _,
    (getFlag_setFlag ..).trans (hzero _)⟩

/-! ## Shifts and rotates -/

/-- An operation on D. -/
theorem unaryD_completes {i : Instr} {s : State} {op : Byte → Word → Word × Byte} {flags : List Flag}
    {post : State → Prop} (hx : exec i s = .next ((s.advance i).unaryD op))
    (hf : ∀ c m f, f ∉ flags → getFlag (op c m).2 f = getFlag c f)
    (hp : ∀ t : State, t.d = (op s.ccr s.d).1 → t.ccr = (op s.ccr s.d).2 → post t) :
    Completes i s [.a, .b] flags [] post :=
  ⟨_, hx, rfl, (s.effect_advance i _ _).after rfl ((s.advance i).effect_setDFlags _ flags (hf _ _)),
    hp _ (State.setDFlags_d ..) rfl⟩

/-- D shifted to the left, as a number (43_logic_bit_shift.md R350). -/
theorem lsl16_toNat (ccr : Byte) (m : Word) : (lsl16 ccr m).1.toNat = 2 * m.toNat % 65536 := by
  simp only [lsl16]
  rw [toNat_append_eq_add, BitVec.extractLsb'_toNat, Nat.shiftRight_zero]
  simp
  omega

/-- D shifted to the right, as a number (43_logic_bit_shift.md R350). -/
theorem lsr16_toNat (ccr : Byte) (m : Word) : (lsr16 ccr m).1.toNat = m.toNat / 2 := by
  have hm := m.isLt
  simp only [lsr16]
  rw [toNat_append_eq_add, BitVec.extractLsb'_toNat, Nat.shiftRight_eq_div_pow]
  simp
  omega

/-- The flags of a shift of D to the left. -/
theorem lsl16_flags {t : State} {ccr : Byte} {m : Word} (h : t.ccr = (lsl16 ccr m).2) :
    getFlag t.ccr .c = m.getLsbD 15 ∧ FlagsNZV16 t (lsl16 ccr m).1 ((lsl16 ccr m).1.getLsbD 15 != m.getLsbD 15) := by
  refine ⟨?c, ?n, ?z, ?v⟩ <;> rw [h, getFlag_lsl16, getFlag_shiftFlags16] <;> rfl

/-- The flags of a shift of D to the right: bit 15 of the result is clear. -/
theorem lsr16_flags {t : State} {ccr : Byte} {m : Word} (h : t.ccr = (lsr16 ccr m).2) :
    getFlag t.ccr .c = m.getLsbD 0 ∧ FlagsNZV16 t (lsr16 ccr m).1 (m.getLsbD 0) := by
  have hmsb : (lsr16 ccr m).1.msb = false := by
    have hm := m.isLt
    rw [word_msb, lsr16_toNat, decide_eq_false_iff_not]
    omega
  refine ⟨?c, ?n, ?z, ?v⟩ <;> rw [h, getFlag_lsr16, getFlag_shiftFlags16]
  case c => rfl
  case n => rfl
  case z => rfl
  case v => simp [hmsb]

/-- Settles O38. -/
theorem shiftsAndRotates : Obligations.ShiftsAndRotates := by
  unfold Obligations.ShiftsAndRotates
  have hlsl : Implements lsl8 (leftOp fun _ => false) := implements_left (fun _ _ => rfl) fun _ _ _ => rfl
  have hrol : Implements rol8 (leftOp id) := implements_left (fun _ _ => rfl) fun _ _ _ => rfl
  have hasr : Implements asr8 (rightOp fun m _ => m.getLsbD 7) :=
    implements_right (fun _ m => by rw [← extract_bit7]; rfl) fun _ _ _ => rfl
  have hlsr : Implements lsr8 (rightOp fun _ _ => false) := implements_right (fun _ _ => rfl) fun _ _ _ => rfl
  have hror : Implements ror8 (rightOp fun _ k => k) := implements_right (fun _ _ => rfl) fun _ _ _ => rfl
  have hleft {i : Instr} (hx : ∀ s, exec i s = .next ((s.advance i).unaryD lsl16)) (s : State) :
      Completes i s [.a, .b] [.n, .z, .v, .c] [] fun t =>
        t.d.toNat = 2 * s.d.toNat % 65536 ∧ getFlag t.ccr .c = s.d.getLsbD 15 ∧
          FlagsNZV16 t t.d (t.d.getLsbD 15 != s.d.getLsbD 15) := by
    refine unaryD_completes (hx s) (by simp +contextual) fun t ht hc => ?_
    rw [ht]
    exact ⟨lsl16_toNat .., lsl16_flags hc⟩
  refine ⟨unaryRule_of_exec hlsl (fun _ _ => rfl) (fun _ => rfl) fun _ => rfl,
    unaryRule_of_exec hlsl (fun _ _ => rfl) (fun _ => rfl) fun _ => rfl,
    unaryRule_of_exec hrol (fun _ _ => rfl) (fun _ => rfl) fun _ => rfl,
    unaryRule_of_exec hasr (fun _ _ => rfl) (fun _ => rfl) fun _ => rfl,
    unaryRule_of_exec hlsr (fun _ _ => rfl) (fun _ => rfl) fun _ => rfl,
    unaryRule_of_exec hror (fun _ _ => rfl) (fun _ => rfl) fun _ => rfl,
    hleft fun _ => rfl, hleft fun _ => rfl, fun s => ?lsrd⟩
  refine unaryD_completes rfl (by simp +contextual) fun t ht hc => ?_
  rw [ht]
  exact ⟨lsr16_toNat .., lsr16_flags hc⟩

/-! ## CLR, BSET and BCLR -/

/-- The complement of a mask, as the rule writes it (43_logic_bit_shift.md R342). -/
theorem not_eq_ones_sub (m : Byte) : ~~~m = 0xFF - m := by
  have hm := m.isLt
  apply BitVec.eq_of_toNat_eq
  rw [BitVec.toNat_not, BitVec.toNat_sub, show (0xFF : Byte).toNat = 255 from rfl]
  omega

/-- BSET and BCLR: `f` combines the byte with the mask (43_logic_bit_shift.md R342, R343). -/
theorem modifyBits_completes {i : Instr} {m : BitOperand} {s : State} {f : Byte → Byte}
    (hx : exec i s = .next ((s.advance i).modifyBits m f)) :
    let p := (s.advance i).eaBit m
    CompletesVia i s p.2 [] (bitAuto m) [.n, .z, .v] [(p.1, f (p.2.read8 p.1).1)] fun t =>
      FlagsNZV8 t (f (p.2.read8 p.1).1) false := by
  intro p
  exact modifyAt_completes (op := fun ccr v => (f v, logicFlags8 ccr (f v))) hx
    ((s.effect_advance _ _ _).after rfl (State.effect_eaBit _ m)) (by simp [p]) (by simp [p, State.pcNext])
    (by simp [p]) (by simp +contextual) fun t ht => flagsNZV8_logic _ _ _ ht

/-- Settles O35. -/
theorem clearMemoryAndBits : Obligations.ClearMemoryAndBits := by
  unfold Obligations.ClearMemoryAndBits
  refine ⟨?clr, fun m mask s => modifyBits_completes (f := (· ||| mask)) rfl, ?bclr⟩
  case clr =>
    intro m s p
    have hea : Effect s p.2 (rmwAuto m) [] [] := (s.effect_advance _ _ _).after rfl (State.effect_eaRmw _ m)
    have hset : Effect (p.2.write8 p.1 0) ((p.2.write8 p.1 0).setCcr (clrFlags s.ccr))
        (rmwAuto m) [.n, .z, .v, .c] [] :=
      State.effect_setCcr _ _ _ _ (by simp +contextual [p])
    have hreg (r : RegName) : ((p.2.write8 p.1 0).setCcr (clrFlags s.ccr)).reg r = p.2.reg r := by
      cases r <;> simp [State.reg]
    refine ⟨_, rfl, by simp [State.pcNext], ?_, fun r _ => hreg r, by simp, by simp, by simp, by simp, by simp [p]⟩
    exact (hea.mono (fun _ h => h) (by simp)).after (by simp [p]) ((p.2.effect_write8 p.1 0 _ _).andThen hset)
  case bclr =>
    intro m mask s
    rw [← not_eq_ones_sub]
    exact modifyBits_completes (f := (· &&& ~~~mask)) rfl

end Sys2Proof.Machine
end

section
/-!
SUPPORT. Frames of the stack operations and of the changes of flow, and what a pull answers.
-/

namespace Sys2Proof.Machine

/-! ## Frames -/

/-- Stores after stores: what both leave alone is unchanged. -/
theorem Effect.append {s u t : State} {regs : List RegName} {flags : List Flag} {k l : List (Word × Byte)}
    (h : Effect s u regs flags l) (hm : Memory.wf s.mem = true → Memory.wf u.mem = true)
    (h' : Effect u t regs flags k) : Effect s t regs flags (k ++ l) where
  registers r hr := (h'.registers r hr).trans (h.registers r hr)
  flagBits f hf := (h'.flagBits f hf).trans (h.flagBits f hf)
  memory hw x := by
    have hl : l = [] ∨ Memory.wf s.mem = true := hw.imp_left fun e => (List.append_eq_nil_iff.mp e).2
    have hk : k = [] ∨ Memory.wf u.mem = true := hw.imp (fun e => (List.append_eq_nil_iff.mp e).1) hm
    exact (h'.memory hk x).trans (State.overlay_append (h.memory hl) h.config k x)
  page hp := (h'.page fun c hc => by rw [h.config]; exact hp c (List.mem_append_left l hc)).trans
    (h.page fun c hc => hp c (List.mem_append_right k hc))
  run := h'.run.trans h.run
  progress := h'.progress.trans h.progress
  requests := h'.requests.trans h.requests
  config := h'.config.trans h.config

/-- A change of fields that no program sees after a frame: PC, the queue and the stale bytes. -/
theorem State.effect_jump (s : State) (target : Word) (regs : List RegName) (flags : List Flag) :
    Effect s (s.jump target) regs flags [] :=
  .of_registers (fun _ => rfl) (fun _ => rfl) (fun _ => rfl) (fun _ => rfl) (fun _ => rfl) fun _ _ => rfl

theorem State.effect_goto (s : State) (target : Word) (regs : List RegName) (flags : List Flag) :
    Effect s (s.goto target) regs flags [] :=
  .of_registers (fun _ => rfl) (fun _ => rfl) (fun _ => rfl) (fun _ => rfl) (fun _ => rfl) fun _ _ => rfl

theorem State.effect_refill (s : State) (regs : List RegName) (flags : List Flag) :
    Effect s s.refill regs flags [] :=
  .of_registers (fun _ => rfl) (fun _ => rfl) (fun _ => rfl) (fun _ => rfl) (fun _ => rfl) fun _ _ => rfl

/-- A branch changes PC, and where it is taken the queue. -/
theorem State.effect_branch (s : State) (taken : Bool) (off : Word) (regs : List RegName) (flags : List Flag) :
    Effect s (s.branch taken off) regs flags [] := by
  cases taken with
  | false => exact Effect.refl ..
  | true => exact s.effect_jump ..

/-- Where a branch goes. -/
theorem State.branch_pc (s : State) (taken : Bool) (off : Word) :
    (s.branch taken off).pc = if taken = true then s.pc + off else s.pc := by
  cases taken <;> rfl

/-- SP alone. -/
theorem State.effect_setSp (s : State) (v : Word) : Effect s { s with sp := v } [.sp] [] [] :=
  .of_registers (fun _ => rfl) (fun _ => rfl) (fun _ => rfl) (fun _ => rfl) (by simp) fun _ _ => rfl

/-- `Push8` changes SP and stores one byte (00_scope.md R10). -/
theorem State.effect_push8 (s : State) (v : Byte) : Effect s (s.push8 v) [.sp] [] [(s.sp - 1, v)] :=
  (s.effect_setSp (s.sp - 1)).after rfl (State.effect_write8 _ _ v [.sp] [])

/-- `Push16` changes SP and stores two bytes (00_scope.md R10). -/
theorem State.effect_push16 (s : State) (v : Word) : Effect s (s.push16 v) [.sp] [] (wordStores (s.sp - 2) v) :=
  (s.effect_setSp (s.sp - 2)).after rfl (State.effect_write16 _ _ v [.sp] [])

/-- `Pull16` changes SP alone (00_scope.md R10). -/
theorem State.effect_pull16 (s : State) : Effect s s.pull16.2 [.sp] [] [] :=
  (s.effect_read16 s.sp [.sp] []).andThen (State.effect_setSp _ _)

/-- The frame of an exception: nine bytes below SP, and SP (47_system.md R544). -/
theorem State.effect_stackFrame (s : State) (rtn : Word) :
    Effect s (s.stackFrame rtn) [.sp] [] (s.frameStores rtn) := by
  have e4 : s.sp - 2 - 2 = s.sp - 4 := BitVec.sub_sub ..
  have e6 : s.sp - 4 - 2 = s.sp - 6 := BitVec.sub_sub ..
  have e8 : s.sp - 6 - 2 = s.sp - 8 := BitVec.sub_sub ..
  have e9 : s.sp - 8 - 1 = s.sp - 9 := BitVec.sub_sub ..
  have h1 := s.effect_push16 rtn
  have h2 := (s.push16 rtn).effect_push16 s.y
  have h3 := ((s.push16 rtn).push16 s.y).effect_push16 s.x
  have h4 := (((s.push16 rtn).push16 s.y).push16 s.x).effect_push16 (s.b ++ s.a)
  have h5 := ((((s.push16 rtn).push16 s.y).push16 s.x).push16 (s.b ++ s.a)).effect_push8 s.ccr
  simp only [State.push16_sp, e4, e6, e8, e9] at h2 h3 h4 h5
  have hw1 (hm : Memory.wf s.mem = true) := State.wf_push16 hm rtn
  have hw2 (hm : Memory.wf s.mem = true) := State.wf_push16 (hw1 hm) s.y
  have hw3 (hm : Memory.wf s.mem = true) := State.wf_push16 (hw2 hm) s.x
  have hw4 (hm : Memory.wf s.mem = true) := State.wf_push16 (hw3 hm) (s.b ++ s.a)
  exact (((h1.append hw1 h2).append hw2 h3).append hw3 h4).append hw4 h5

@[simp] theorem State.stackFrame_sp (s : State) (rtn : Word) : (s.stackFrame rtn).sp = s.sp - 9 := by
  simp only [State.stackFrame, State.push8_sp, State.push16_sp]
  bv_omega

/-! ## Reading where only PC has moved -/

/-- Reading commutes with moving PC. -/
theorem State.read8_advance (s : State) (i : Instr) (a : Word) :
    (s.advance i).read8 a = ((s.read8 a).1, (s.read8 a).2.advance i) := by
  unfold State.read8
  rw [State.kindAt_congr (s.advance_cfg i), State.advance_cfg]
  by_cases hp : s.cfg.ppageAddr = some a
  · rw [if_pos hp, if_pos hp]
    rfl
  · rw [if_neg hp, if_neg hp]
    cases s.kindAt a <;> rfl

/-- The same for a word. -/
theorem State.read16_advance (s : State) (i : Instr) (a : Word) :
    (s.advance i).read16 a = ((s.read16 a).1, (s.read16 a).2.advance i) := by
  simp only [State.read16, State.read8_advance]

/-- A byte pulled where PC has moved. -/
theorem State.pull8_advance_fst (s : State) (i : Instr) : (s.advance i).pull8.1 = (s.read8 s.sp).1 := by
  change ((s.advance i).read8 s.sp).1 = _
  rw [State.read8_advance]

/-- A word pulled where PC has moved. -/
theorem State.pull16_advance_fst (s : State) (i : Instr) : (s.advance i).pull16.1 = (s.read16 s.sp).1 := by
  change ((s.advance i).read16 s.sp).1 = _
  rw [State.read16_advance]

/-! ## What a pull answers -/

section
variable {s u : State} {k : Word} (hm : u.mem = s.mem) (hp : u.ppage = s.ppage) (hc : u.cfg = s.cfg)
  (hsp : u.sp = s.sp + k)
include hm hp hc hsp

/-- A byte pulled where SP has gone up by `k` over memory as it was. -/
theorem State.pull8_fst_at (h : s.plain (s.sp + k) = true) : u.pull8.1 = s.peek (s.sp + k) := by
  rw [State.pull8_fst_plain (by rwa [hsp, State.plain_congr hc]), hsp, State.peek_congr hm hp hc]

/-- A word pulled where SP has gone up by `k` over memory as it was. -/
theorem State.pull16_fst_at (h : s.plain (s.sp + k) = true) (h' : s.plain (s.sp + (k + 1)) = true) :
    u.pull16.1 = s.peek16 (s.sp + k) := by
  rw [← BitVec.add_assoc] at h'
  rw [State.pull16_fst_plain (by rwa [hsp, State.plain_congr hc]) (by rwa [hsp, State.plain_congr hc]), hsp,
    State.peek16_congr (State.peek_congr hm hp hc _) (State.peek_congr hm hp hc _)]

end

end Sys2Proof.Machine
end

section
/-!
PROOFS. Branches on bits, jumps, calls and returns (45_branch_jump_call.md R480 to R500).
-/

namespace Sys2Proof.Machine

/-! ## BRCLR and BRSET -/

/-- All masked bits of a byte are clear (45_branch_jump_call.md R480). -/
theorem and_mask_eq_zero {v mask : Byte} :
    (v &&& mask == 0) = true ↔ ∀ k < 8, mask.getLsbD k = true → v.getLsbD k = false := by
  rw [beq_iff_eq]
  constructor
  · intro h k _ hk
    have hbit := congrArg (·.getLsbD k) h
    simpa [hk] using hbit
  · intro h
    apply BitVec.eq_of_getLsbD_eq
    intro k hk
    cases hmask : mask.getLsbD k with
    | false => simp [hmask]
    | true => simp [h k hk hmask]

/-- A branch on the bits of a byte: the byte is read once, and nothing changes but PC and an automatic base. -/
theorem branchBits_next {i : Instr} {m : BitOperand} {rel : Byte} {test : Byte → Bool} {s : State}
    (hx : exec i s = .next ((s.advance i).branchBits m rel test)) :
    let p := (s.advance i).eaBit m
    ∃ t, exec i s = .next t ∧ Effect s t (bitAuto m) [] [] ∧ (∀ r, t.reg r = p.2.reg r) ∧
      t.pc = if test (p.2.read8 p.1).1 = true then s.pcNext i + rel.signExtend 16 else s.pcNext i := by
  intro p
  have hea : Effect s p.2 (bitAuto m) [] [] := (s.effect_advance i _ _).after rfl (State.effect_eaBit _ m)
  have hread := p.2.effect_read8 p.1 (bitAuto m) []
  have hpc : (p.2.read8 p.1).2.pc = s.pcNext i := by simp [p, State.pcNext]
  refine ⟨_, hx, (hea.andThen hread).andThen (State.effect_branch ..), fun r => ?_, ?_⟩
  · exact (State.branch_reg ..).trans ((p.2.effect_read8 p.1 [] []).registers r (by simp))
  · rw [← hpc]
    exact State.branch_pc ..

/-- Settles O46: a branch that is not taken is one whose test fails. -/
theorem bitBranches : Obligations.BitBranches := by
  unfold Obligations.BitBranches
  refine ⟨?brclr, ?brset⟩
  case brclr =>
    intro m mask rel s p v
    obtain ⟨t, hx, heff, hreg, hpc⟩ := branchBits_next (i := .brclr m mask rel) (s := s) rfl
    refine ⟨t, hx, heff, hreg, fun h => ?_, fun ⟨k, hk, hmask, hbit⟩ => ?_⟩
    · rw [hpc, if_pos (and_mask_eq_zero.mpr h)]
    · rw [hpc, if_neg fun h => ?_]
      exact Bool.false_ne_true ((and_mask_eq_zero.mp h k hk hmask).symm.trans hbit)
  case brset =>
    intro m mask rel s p v
    obtain ⟨t, hx, heff, hreg, hpc⟩ := branchBits_next (i := .brset m mask rel) (s := s) rfl
    have hnot {k : Nat} (hk : k < 8) : (~~~v).getLsbD k = !v.getLsbD k := by simp [hk]
    refine ⟨t, hx, heff, hreg, fun h => ?_, fun ⟨k, hk, hmask, hbit⟩ => ?_⟩
    · rw [hpc, if_pos (and_mask_eq_zero.mpr fun k hk hmask => ?_)]
      rw [hnot hk, h k hk hmask]
      rfl
    · rw [hpc, if_neg fun h => ?_]
      have hclear := and_mask_eq_zero.mp h k hk hmask
      rw [hnot hk, hbit] at hclear
      exact Bool.false_ne_true hclear.symm

/-! ## JMP, JSR, BSR and RTS -/

/-- The call sequence stacks PC and goes to the target (45_branch_jump_call.md R496). -/
theorem State.effect_callTo (s : State) (target : Word) :
    Effect s (s.callTo target) [.sp] [] (wordStores (s.sp - 2) s.pc) :=
  (((s.effect_refill _ _).after rfl (s.refill.effect_push16 s.pc)).andThen (State.effect_goto ..))

/-- Settles O48. -/
theorem jumpsAndSubroutineCalls : Obligations.JumpsAndSubroutineCalls := by
  unfold Obligations.JumpsAndSubroutineCalls
  refine ⟨?jmp, ?jsr, ?bsr⟩
  case jmp =>
    intro m s p
    have hea : Effect s p.2 (rmwAuto m) [] [] := (s.effect_advance _ _ _).after rfl (State.effect_eaRmw _ m)
    exact ⟨_, rfl, rfl, fun r => (p.2.effect_jump p.1 [] []).registers r (by simp),
      hea.andThen (State.effect_jump ..)⟩
  case jsr =>
    intro m s p
    have hea : Effect s p.2 (memAuto m) [] [] := (s.effect_advance _ _ _).after rfl (State.effect_eaMem _ m)
    have hpc : p.2.pc = s.pcNext (.jsr m) := State.eaMem_pc ..
    have hcall := p.2.effect_callTo p.1
    rw [hpc] at hcall
    refine ⟨_, rfl, rfl, by simp [State.callTo, p], fun r hr => hcall.registers r (by simpa using hr), ?_⟩
    exact (hea.mono (by simp +contextual) (by simp)).after (State.eaMem_mem ..)
      (hcall.mono (by simp +contextual) (by simp))
  case bsr =>
    intro rel s
    exact ⟨_, rfl, rfl, by simp [State.callTo],
      (s.effect_advance _ _ _).after rfl ((s.advance (.bsr rel)).effect_callTo _)⟩

/-- Settles O49. -/
theorem returnFromSubroutine : Obligations.ReturnFromSubroutine := by
  unfold Obligations.ReturnFromSubroutine
  refine ⟨rfl, fun s => ⟨_, rfl, ?_, by simp, ?_⟩⟩
  · exact s.pull16_advance_fst .rts
  · exact ((s.effect_advance .rts _ _).after rfl (s.advance .rts).effect_pull16).andThen (State.effect_jump ..)

/-! ## CALL and RTC -/

/-- What every address holds after CALL has stacked the return address and the old page (45_branch_jump_call.md R499).
-/
theorem State.peek_callStack_overlay {c : State} (hm : Memory.wf c.mem = true) (x : Word) :
    c.callStack.peek x = c.overlay ((c.sp - 3, c.ppage) :: wordStores (c.sp - 2) c.pc) x := by
  have hpush := c.refill.effect_push16 c.pc
  have hpage := (c.refill.push16 c.pc).effect_push8 c.ppage
  rw [State.push16_sp, State.refill_sp, sub_two_sub_one] at hpage
  have hboth := hpush.append (fun h => State.wf_push16 h c.pc) hpage
  exact ((c.effect_refill _ _).after rfl hboth).memory (.inr hm) x

/-- Where PPAGE is not, an address holds what memory has. -/
theorem State.peek_congr_at {s t : State} {x : Word} (hx : s.cfg.ppageAddr ≠ some x) (hm : t.mem = s.mem)
    (hc : t.cfg = s.cfg) : t.peek x = s.peek x := by
  rw [State.peek, State.peek, hc, hm, if_neg hx, if_neg hx]

/-- The pointer of an indirect CALL, where its three bytes can be read back (45_branch_jump_call.md R499). -/
theorem State.callPointer_plain {s : State} {ptr : Word} (h : s.plain ptr = true) (h' : s.plain (ptr + 1) = true)
    (h'' : s.plain (ptr + 2) = true) : s.callPointer ptr = (s.peek16 ptr, s.peek (ptr + 2), s) := by
  simp only [State.callPointer, State.read16_plain h h', State.read8_plain h'']

/-- Settles O50. -/
theorem callsInExpandedMemory : Obligations.CallsInExpandedMemory := by
  unfold Obligations.CallsInExpandedMemory
  refine ⟨?call, fun _ _ _ => rfl, fun _ _ _ => rfl, fun r s => State.callPointer_plain (s := s.advance _),
    fun r n s => State.callPointer_plain (s := s.advance _), ?rtc⟩
  case call =>
    intro ct s u stores
    have hcfg : u.2.2.cfg = s.cfg := State.callTarget_cfg ..
    have hmem : u.2.2.mem = s.mem := State.callTarget_mem ..
    have hpage : u.2.2.ppage = s.ppage := State.callTarget_ppage ..
    have hpc : u.2.2.pc = s.pcNext (.call ct) := State.callTarget_pc ..
    refine ⟨_, rfl, rfl, rfl, State.callStack_sp u.2.2, by simp, by simp, by simp [u], by simp [u], by simp, by simp,
      fun hm x hx => ?_⟩
    have hstack : u.2.2.callStack.peek x = s.overlay stores x := by
      rw [State.peek_callStack_overlay (by rwa [hmem]), hpage, hpc]
      exact State.overlay_congr (State.peek_congr hmem hpage hcfg) hcfg _ x
    rw [← hstack]
    exact State.peek_congr_at (s := u.2.2.callStack) (by rwa [State.callStack_cfg, hcfg]) rfl rfl
  case rtc =>
    intro s
    have hx : exec .rtc s = .next _ := rfl
    obtain ⟨hpage, hsp, r, hrm, hrc, hrsp, hpc⟩ := exec_rtc_pulls hx
    refine ⟨_, hx, hsp, ?_, by simp, by simp, by simp, by simp, by simp, by simp, by simp, fun hn h1 h2 => ?_⟩
    · exact hpage.trans (s.pull8_advance_fst .rtc)
    · have hpeek : ∀ x, r.peek x = s.peek x := State.peek_congr_of_unmapped hn hrm hrc
      have e : s.sp + 1 + 1 = s.sp + 2 := by bv_omega
      rw [hpc, State.pull16_fst_plain (by rw [State.plain_congr hrc, hrsp, h1])
        (by rw [State.plain_congr hrc, hrsp, e, h2]), hrsp, State.peek16_congr (hpeek _) (hpeek _)]

end Sys2Proof.Machine
end

section
/-!
PROOFS. The system instructions (47_system.md R542 to R548), the condition code masks (43_logic_bit_shift.md R334 to
R337) and the state right after reset (70_reset_and_hazards.md R611).
-/

namespace Sys2Proof.Machine

/-! ## RTI, WAI, STOP, BGND, NOP -/

/-- Settles O57: each register is what a pull answers, with SP gone up over memory as it was. -/
theorem returnFromInterrupt : Obligations.ReturnFromInterrupt := by
  unfold Obligations.ReturnFromInterrupt
  intro s
  refine ⟨_, rfl, ?sp, ?effect, fun h => ⟨?ccr, ?b, ?a, ?x, ?y, ?pc⟩⟩
  case sp => simp [State.returnFromException, BitVec.add_assoc]
  case effect =>
    refine .of_registers (by simp) (by simp) (by simp) (by simp) (by simp) (fun f => by cases f <;> simp)
      ?_ ?_ ?_ ?_ ?_ ?_ <;> simp [State.returnFromException]
  case ccr =>
    have hpull := State.pull8_fst_at (s := s) (u := s.advance .rti) (k := 0) rfl rfl rfl (by simp) (h 0 (by decide))
    rw [← writeCcr_eq_written8, ← BitVec.add_zero s.sp]
    refine Eq.trans ?_ (congrArg (writeCcr s.ccr) hpull)
    simp [State.returnFromException]
  case b => exact State.pull8_fst_at (by simp) (by simp) (by simp) (by simp) (h 1 (by decide))
  case a => exact State.pull8_fst_at (by simp) (by simp) (by simp) (by simp [BitVec.add_assoc]) (h 2 (by decide))
  case x =>
    exact State.pull16_fst_at (by simp) (by simp) (by simp) (by simp [BitVec.add_assoc]) (h 3 (by decide))
      (h 4 (by decide))
  case y =>
    exact State.pull16_fst_at (by simp) (by simp) (by simp) (by simp [BitVec.add_assoc]) (h 5 (by decide))
      (h 6 (by decide))
  case pc =>
    exact State.pull16_fst_at (by simp) (by simp) (by simp) (by simp [BitVec.add_assoc]) (h 7 (by decide))
      (h 8 (by decide))

/-- The frame of a change that goes on to another run state. -/
theorem Effect.sameRun {s t : State} {regs : List RegName} {flags : List Flag} {l : List (Word × Byte)}
    (h : Effect s t regs flags l) : Effect s { t with runState := s.runState } regs flags l :=
  ⟨h.registers, h.flagBits, h.memory, h.page, rfl, h.progress, h.requests, h.config⟩

/-- Settles O59. -/
theorem waitStopAndBackground : Obligations.WaitStopAndBackground := by
  unfold Obligations.WaitStopAndBackground
  have hframe (i : Instr) (s : State) : Effect s ((s.advance i).stackFrame (s.pcNext i)) [.sp] []
      (s.frameStores (s.pcNext i)) := (s.effect_advance i _ _).after rfl ((s.advance i).effect_stackFrame _)
  refine ⟨fun s => ?wai, fun s h => ?stopSet, fun s h => ?stopClear, fun s h => ?enabled, fun s h => ?disabled⟩
  case wai => exact ⟨_, rfl, by simp [State.pcNext], by simp, rfl, (hframe .wai s).sameRun⟩
  case stopSet => exact if_pos h
  case stopClear =>
    exact ⟨_, if_neg (by simp [h]), by simp [State.pcNext], by simp, rfl, (hframe .stop s).sameRun⟩
  case enabled => exact if_pos h
  case disabled => exact if_neg (by simp [h])

/-- Settles O60. -/
theorem noOperation : Obligations.NoOperation := by
  unfold Obligations.NoOperation
  exact ⟨rfl, fun _ => rfl⟩

/-! ## Condition code masks -/

@[simp] theorem getFlag_and (p q : Byte) (f : Flag) : getFlag (p &&& q) f = (getFlag p f && getFlag q f) :=
  BitVec.getLsbD_and

@[simp] theorem getFlag_or (p q : Byte) (f : Flag) : getFlag (p ||| q) f = (getFlag p f || getFlag q f) :=
  BitVec.getLsbD_or

/-- Settles O36: `WriteCCR` lets a mask clear every flag and set all but X. -/
theorem conditionCodeMasks : Obligations.ConditionCodeMasks := by
  unfold Obligations.ConditionCodeMasks
  have hand (ccr imm : Byte) : writeCcr ccr (ccr &&& imm) = ccr &&& imm := by
    apply ccr_ext
    intro f
    rw [getFlag_writeCcr, getFlag_and]
    cases f <;> simp
    intro h _
    exact h
  refine ⟨fun imm s => ?andcc, fun imm s => ?orcc, fun s => ?cli⟩
  case andcc => exact setCcr_completes rfl (fun f => by cases f <;> simp) fun t ht => ht.trans (hand s.ccr imm)
  case orcc =>
    refine setCcr_completes rfl (fun f => by cases f <;> simp +contextual) fun t ht f hf => ?_
    rw [ht, getFlag_writeCcr, if_neg hf, getFlag_or]
  case cli =>
    refine setCcr_completes rfl (fun f => by cases f <;> simp) fun t ht => ?_
    rw [ht, getFlag_setFlag, if_pos rfl]

/-! ## Reset -/

/-- Settles O5. -/
theorem resetSatisfiesInvariant : Obligations.ResetSatisfiesInvariant := by
  unfold Obligations.ResetSatisfiesInvariant
  exact ⟨rfl, .inl rfl, fun _ hc => (List.not_mem_nil hc).elim, fun h => absurd rfl h, fun _ => rfl⟩

/-- Settles O6. -/
theorem resetState : Obligations.ResetState := by
  unfold Obligations.ResetState
  exact ⟨rfl, rfl, rfl, rfl, rfl, rfl, rfl, rfl⟩

end Sys2Proof.Machine
end

section
/-!
PROOFS. Transfers and exchanges of registers (41_move_transfer_stack.md R210 to R227).
-/

namespace Sys2Proof.Machine

/-! ## Registers by name -/

@[simp] theorem State.advance_getReg8 (s : State) (i : Instr) (r : Reg8) : (s.advance i).getReg8 r = s.getReg8 r := by
  cases r <;> rfl

@[simp] theorem State.advance_getReg16 (s : State) (i : Instr) (r : Reg16) :
    (s.advance i).getReg16 r = s.getReg16 r := by
  cases r <;> rfl

@[simp] theorem State.advance_written8 (s : State) (i : Instr) (r : Reg8) (v : Byte) :
    (s.advance i).written8 r v = s.written8 r v := rfl

/-- Reading a byte register after a write to it; CCR has gone through `WriteCCR` (10_state.md R35). -/
@[simp] theorem State.getReg8_setReg8 (s : State) (r : Reg8) (v : Byte) :
    (s.setReg8 r v).getReg8 r = s.written8 r v := by
  cases r with
  | a => rfl
  | b => rfl
  | ccr => exact writeCcr_eq_written8 s v

/-- A write to one byte register leaves the others. -/
theorem State.getReg8_setReg8_of_ne (s : State) {r r' : Reg8} (h : r' ≠ r) (v : Byte) :
    (s.setReg8 r v).getReg8 r' = s.getReg8 r' := by
  cases r with
  | a => cases r' with
    | a => exact absurd rfl h
    | b | ccr => rfl
  | b => cases r' with
    | b => exact absurd rfl h
    | a | ccr => rfl
  | ccr => cases r' with
    | ccr => exact absurd rfl h
    | a | b => rfl

/-- Reading a word register after a write to it. -/
@[simp] theorem State.getReg16_setReg16 (s : State) (r : Reg16) (v : Word) : (s.setReg16 r v).getReg16 r = v := by
  cases r with
  | d => exact State.setD_d s v
  | x => rfl
  | y => rfl
  | sp => rfl

/-- A write to one word register leaves the others. -/
theorem State.getReg16_setReg16_of_ne (s : State) {r r' : Reg16} (h : r' ≠ r) (v : Word) :
    (s.setReg16 r v).getReg16 r' = s.getReg16 r' := by
  cases r with
  | d => cases r' with
    | d => exact absurd rfl h
    | x | y | sp => rfl
  | x => cases r' with
    | x => exact absurd rfl h
    | d | y | sp => rfl
  | y => cases r' with
    | y => exact absurd rfl h
    | d | x | sp => rfl
  | sp => cases r' with
    | sp => exact absurd rfl h
    | d | x | y => rfl

/-- CCR is no part of a word register, and A and B are parts of D alone. -/
def apart (p : Reg8) (q : Reg16) : Prop := q = .d → p = .ccr

/-- A write to a byte register leaves the word registers it is no half of. -/
theorem State.getReg16_setReg8 (s : State) {p : Reg8} {q : Reg16} (h : apart p q) (v : Byte) :
    (s.setReg8 p v).getReg16 q = s.getReg16 q := by
  cases q with
  | d =>
    obtain rfl := h rfl
    rfl
  | x => exact State.setReg8_x ..
  | y => exact State.setReg8_y ..
  | sp => exact State.setReg8_sp ..

/-- What a byte register takes depends on X alone, and a word register is not the CCR. -/
@[simp] theorem State.setReg16_written8 (s : State) (r : Reg16) (w : Word) (q : Reg8) (v : Byte) :
    (s.setReg16 r w).written8 q v = s.written8 q v := by
  simp [State.written8]

/-- A write to a byte register changes it alone. -/
theorem State.effect_setReg8 (s : State) (r : Reg8) (v : Byte) :
    Effect s (s.setReg8 r v) (regNames (.r8 r)) (regFlags (.r8 r)) [] := by
  cases r with
  | a =>
    exact .of_registers (by simp [regNames]) (fun _ => rfl) (fun _ => rfl) (fun _ => rfl) (fun _ => rfl)
      fun _ _ => rfl
  | b =>
    exact .of_registers (fun _ => rfl) (by simp [regNames]) (fun _ => rfl) (fun _ => rfl) (fun _ => rfl)
      fun _ _ => rfl
  | ccr => exact State.effect_setCcr s _ _ _ fun f => by cases f <;> simp [regFlags]

/-- A write to a word register changes it alone. -/
theorem State.effect_setReg16 (s : State) (r : Reg16) (v : Word) :
    Effect s (s.setReg16 r v) (regNames (.r16 r)) [] [] := by
  apply Effect.of_registers
  all_goals cases r <;> simp [regNames, State.setReg16]

/-- Drawing a free byte changes no register. -/
theorem State.effect_drawByte (s : State) : Effect s s.drawByte.2 [] [] [] :=
  .of_registers (fun _ => rfl) (fun _ => rfl) (fun _ => rfl) (fun _ => rfl) (fun _ => rfl) fun _ _ => rfl

/-- An instruction that works on registers alone completes, and the next one follows it. -/
theorem completes_of_registers {i : Instr} {s t : State} {regs : List RegName} {flags : List Flag} {post : State → Prop}
    (hx : exec i s = .next t) (hpc : t.pc = (s.advance i).pc) (h : Effect (s.advance i) t regs flags []) (hp : post t) :
    Completes i s regs flags [] post :=
  ⟨t, hx, hpc, (s.effect_advance i _ _).after rfl h, hp⟩

/-! ## Transfers -/

/-- A byte register written (R210, R212). -/
theorem setReg8_completes {i : Instr} {s : State} {q : Reg8} {v : Byte}
    (hx : exec i s = .next ((s.advance i).setReg8 q v)) :
    Completes i s (regNames (.r8 q)) (regFlags (.r8 q)) [] fun t => t.getReg8 q = s.written8 q v :=
  completes_of_registers hx (by simp) ((s.advance i).effect_setReg8 q v) (by simp)

/-- A word register written (R210, R211, R217). -/
theorem setReg16_completes {i : Instr} {s : State} {q : Reg16} {v : Word} {post : State → Prop}
    (hx : exec i s = .next ((s.advance i).setReg16 q v)) (hp : ∀ t : State, t.getReg16 q = v → post t) :
    Completes i s (regNames (.r16 q)) [] [] post :=
  completes_of_registers hx (by simp) ((s.advance i).effect_setReg16 q v) (hp _ (by simp))

/-- A word register that takes a byte with its sign holds the same integer (R211). -/
theorem signExtend_completes {i : Instr} {s : State} {q : Reg16} {v : Byte}
    (hx : exec i s = .next ((s.advance i).setReg16 q (v.signExtend 16))) :
    Completes i s (regNames (.r16 q)) [] [] fun t => (t.getReg16 q).toInt = v.toInt :=
  setReg16_completes hx fun t ht => by rw [ht, BitVec.toInt_signExtend_of_le (by decide)]

/-- Exchanging D with another word register changes no flag (R224, R225). -/
theorem exchangeD_effect {s : State} {q : Reg16} :
    Effect s ((s.setD (s.getReg16 q)).setReg16 q s.d) ([.a, .b] ++ regNames (.r16 q)) [] [] :=
  ((s.effect_setReg16 .d _).mono (by simp +contextual [regNames]) (by simp)).andThen
    ((State.effect_setReg16 _ q _).mono (by simp +contextual) (by simp))

/-- Settles O23. -/
theorem transfers : Obligations.Transfers := by
  unfold Obligations.Transfers
  refine ⟨?tfr88, ?tfr816, ?tfr168, ?tfr1616, ?sex, ?tap, ?tpa, ?tsx, ?tsy, ?txs, ?tys, ?xgdx, ?xgdy, ?tab, ?tba⟩
  case tfr88 => exact fun p q s => setReg8_completes (congrArg Host.Outcome.next (by simp [State.transfer]))
  case tfr816 => exact fun p q s => signExtend_completes (congrArg Host.Outcome.next (by simp [State.transfer]))
  case tfr168 => exact fun p q s => setReg8_completes (congrArg Host.Outcome.next (by simp [State.transfer]))
  case tfr1616 =>
    exact fun p q s => setReg16_completes (congrArg Host.Outcome.next (by simp [State.transfer])) fun _ ht => ht
  case sex => exact fun p q s => signExtend_completes rfl
  case tap => exact fun s => setReg8_completes (q := .ccr) rfl
  case tpa => exact fun s => setReg8_completes (q := .a) rfl
  case tsx => exact fun s => setReg16_completes (q := .x) rfl fun _ ht => ht
  case tsy => exact fun s => setReg16_completes (q := .y) rfl fun _ ht => ht
  case txs => exact fun s => setReg16_completes (q := .sp) rfl fun _ ht => ht
  case tys => exact fun s => setReg16_completes (q := .sp) rfl fun _ ht => ht
  case xgdx => exact fun s => completes_of_registers rfl rfl (exchangeD_effect (q := .x)) ⟨s.setD_d s.x, rfl⟩
  case xgdy => exact fun s => completes_of_registers rfl rfl (exchangeD_effect (q := .y)) ⟨s.setD_d s.y, rfl⟩
  case tab =>
    exact fun s => setAcc_completes (r := .b) (p := (s.a, logicFlags8 s.ccr s.a)) rfl (by simp +contextual)
      fun t ht hc => ⟨ht, flagsNZV8_logic _ _ _ hc⟩
  case tba =>
    exact fun s => setAcc_completes (r := .a) (p := (s.b, logicFlags8 s.ccr s.b)) rfl (by simp +contextual)
      fun t ht hc => ⟨ht, flagsNZV8_logic _ _ _ hc⟩

/-! ## Exchanges -/

/-- Two frames after one another, each of its own registers and flags. -/
theorem Effect.both {s t u : State} {regs regs' : List RegName} {flags flags' : List Flag}
    (h : Effect s t regs flags []) (h' : Effect t u regs' flags' []) :
    Effect s u (regs ++ regs') (flags ++ flags') [] :=
  (h.mono (by simp +contextual) (by simp +contextual)).andThen (h'.mono (by simp +contextual) (by simp +contextual))

/-- WriteCCR lets what CCR holds stand. -/
theorem State.written8_getReg8 (s : State) (r : Reg8) : s.written8 r (s.getReg8 r) = s.getReg8 r := by
  cases r with
  | a => rfl
  | b => rfl
  | ccr =>
    rw [← writeCcr_eq_written8]
    exact ccr_ext fun f => by cases f <;> simp [State.getReg8]

/-- X is what it was before the first of two writes, unless that write was to CCR. -/
theorem State.setReg8_written8_of_ne (s : State) {p q : Reg8} (h : q ≠ p) (v w : Byte) :
    (s.setReg8 p v).written8 q w = s.written8 q w := by
  cases p with
  | a | b => rfl
  | ccr => cases q with
    | ccr => exact absurd rfl h
    | a | b => rfl

/-- The registers of a same-size exchange of bytes (R213). -/
theorem State.exchange8_registers (s : State) (p q : Reg8) :
    (s.exchange8 p q).getReg8 q = s.written8 q (s.getReg8 p) ∧
      (s.exchange8 p q).getReg8 p = s.written8 p (s.getReg8 q) := by
  by_cases hpq : p = q
  · subst hpq
    have hsame : s.setReg8 p (s.getReg8 p) = s := by
      cases p with
      | a => rfl
      | b => rfl
      | ccr => exact congrArg s.setCcr ((writeCcr_eq_written8 ..).trans (s.written8_getReg8 .ccr))
    simp [State.exchange8, hsame, s.written8_getReg8]
  · refine ⟨?_, ?_⟩
    · simp only [State.exchange8, State.getReg8_setReg8, State.setReg8_written8_of_ne s (Ne.symm hpq)]
    · simp only [State.exchange8, State.getReg8_setReg8_of_ne _ hpq, State.getReg8_setReg8]

/-- The registers of a same-size exchange of words (R213). -/
theorem State.exchange16_registers (s : State) (p q : Reg16) :
    (s.exchange16 p q).getReg16 q = s.getReg16 p ∧ (s.exchange16 p q).getReg16 p = s.getReg16 q := by
  refine ⟨by simp [State.exchange16], ?_⟩
  by_cases hpq : p = q
  · simp [State.exchange16, hpq]
  · simp [State.exchange16, State.getReg16_setReg16_of_ne _ hpq]

/-- EXG of a byte register with a word register it is no half of: the byte register takes a free value (R214). -/
theorem State.exchange8To16_apart (s : State) {p : Reg8} {q : Reg16} (h : apart p q) :
    s.exchange8To16 p q =
      (s.setReg16 q ((s.getReg8 p).zeroExtend 16)).drawByte.2.setReg8 p
        (s.setReg16 q ((s.getReg8 p).zeroExtend 16)).drawByte.1 := by
  cases q with
  | d =>
    obtain rfl := h rfl
    rfl
  | x | y | sp => cases p <;> rfl

/-- EXG of A or B with D writes D alone (R214). -/
theorem State.exchange8To16_half (s : State) {p : Reg8} (h : p ≠ .ccr) :
    s.exchange8To16 p .d = s.setReg16 .d ((s.getReg8 p).zeroExtend 16) := by
  cases p with
  | a => rfl
  | b => rfl
  | ccr => exact absurd rfl h

/-- EXG of a word register with a byte register that is no half of it (R215). -/
theorem State.exchange16To8_apart (s : State) {p : Reg16} {q : Reg8} (h : apart q p) :
    s.exchange16To8 p q =
      (s.drawByte.2.setReg16 p (s.drawByte.1 ++ s.getReg8 q)).setReg8 q ((s.getReg16 p).extractLsb' 0 8) := by
  cases p with
  | d =>
    obtain rfl := h rfl
    rfl
  | x | y | sp => cases q <;> rfl

/-- A byte register is a half of D or apart from the word register. -/
theorem half_or_apart (p : Reg8) (q : Reg16) : (q = .d ∧ p ≠ .ccr) ∨ apart p q := by
  by_cases hq : q = .d
  · by_cases hp : p = .ccr
    · exact .inr fun _ => hp
    · exact .inl ⟨hq, hp⟩
  · exact .inr fun h => absurd h hq

/-- The byte register first (R214). -/
theorem State.exchange8To16_spec (s : State) (p : Reg8) (q : Reg16) :
    Effect s (s.exchange8To16 p q) (regNames (.r8 p) ++ regNames (.r16 q)) (regFlags (.r8 p)) [] ∧
      (s.exchange8To16 p q).getReg16 q = 0x00#8 ++ s.getReg8 p := by
  have hzero : (s.getReg8 p).zeroExtend 16 = 0x00#8 ++ s.getReg8 p := by
    exact BitVec.setWidth_eq_append (by decide)
  have hset := s.effect_setReg16 q ((s.getReg8 p).zeroExtend 16)
  rcases half_or_apart p q with ⟨rfl, hp⟩ | h
  · rw [State.exchange8To16_half s hp, hzero] at *
    exact ⟨hset.mono (by simp +contextual) (by simp), by simp⟩
  · rw [State.exchange8To16_apart s h]
    refine ⟨?_, ?_⟩
    · exact ((hset.both (State.effect_drawByte _)).both (State.effect_setReg8 _ p _)).mono
        (by simp +contextual [or_comm]) (by simp)
    · rw [State.getReg16_setReg8 _ h, ← hzero]
      exact State.getReg16_setReg16 s q _

/-- The word register first (R215). -/
theorem State.exchange16To8_spec (s : State) (p : Reg16) (q : Reg8) :
    Effect s (s.exchange16To8 p q) (regNames (.r16 p) ++ regNames (.r8 q)) (regFlags (.r8 q)) [] ∧
      ((s.exchange16To8 p q).getReg16 p).extractLsb' 0 8 = s.getReg8 q ∧
      (s.exchange16To8 p q).getReg8 q = s.written8 q ((s.getReg16 p).extractLsb' 0 8) := by
  rcases half_or_apart q p with ⟨rfl, hq⟩ | h
  · have hab {t : State} (hx : t.x = s.x) (hy : t.y = s.y) (hsp : t.sp = s.sp) (hc : t.ccr = s.ccr)
        (hm : t.mem = s.mem := by rfl) (hp : t.ppage = s.ppage := by rfl) (hrun : t.runState = s.runState := by rfl)
        (hpr : t.progress = s.progress := by rfl) (hr : t.requests = s.requests := by rfl)
        (hcfg : t.cfg = s.cfg := by rfl) :
        Effect s t (regNames (.r16 .d) ++ regNames (.r8 q)) (regFlags (.r8 q)) [] :=
      .of_registers (by simp [regNames]) (by simp [regNames]) (fun _ => hx) (fun _ => hy) (fun _ => hsp)
        (fun _ _ => by rw [hc]) hm hp hrun hpr hr hcfg
    cases q with
    | a => exact ⟨hab rfl rfl rfl rfl, State.d_low _, (State.d_low s).symm⟩
    | b => exact ⟨hab rfl rfl rfl rfl, State.d_low _, (State.d_low s).symm⟩
    | ccr => exact absurd rfl hq
  · rw [State.exchange16To8_apart s h]
    refine ⟨?_, ?_, ?_⟩
    · exact ((s.effect_drawByte.both (State.effect_setReg16 _ p _)).both (State.effect_setReg8 _ q _)).mono
        (by simp) (by simp)
    · rw [State.getReg16_setReg8 _ h, State.getReg16_setReg16]
      exact BitVec.extractLsb'_append_eq_right
    · rw [State.getReg8_setReg8, State.setReg16_written8]
      rfl

/-- An exchange leaves PC. -/
@[simp] theorem State.exchange_pc (s : State) (r r' : Reg) : (s.exchange r r').pc = s.pc := by
  cases r with
  | r8 p =>
    cases r' with
    | r8 q => simp [State.exchange, State.exchange8]
    | r16 q =>
      rcases half_or_apart p q with ⟨rfl, hp⟩ | h
      · simp [State.exchange, State.exchange8To16_half s hp]
      · simp [State.exchange, State.exchange8To16_apart s h]
  | r16 p =>
    cases r' with
    | r8 q =>
      rcases half_or_apart q p with ⟨rfl, hq⟩ | h
      · cases q with
        | a | b => rfl
        | ccr => exact absurd rfl hq
      · simp [State.exchange, State.exchange16To8_apart s h]
    | r16 q => simp [State.exchange, State.exchange16]

/-- Settles O24. -/
theorem exchangesBySize : Obligations.ExchangesBySize := by
  unfold Obligations.ExchangesBySize
  refine ⟨fun p q s => ?bytes, fun p q s => ?words, fun p q s => ?byteFirst, fun p q s => ?wordFirst⟩
  case bytes =>
    have hregs := (s.advance (.exg (.r8 p) (.r8 q))).exchange8_registers p q
    exact completes_of_registers rfl (by simp) ((State.effect_setReg8 _ p _).both (State.effect_setReg8 _ q _))
      (by simpa [State.exchange] using hregs)
  case words =>
    have hregs := (s.advance (.exg (.r16 p) (.r16 q))).exchange16_registers p q
    exact completes_of_registers rfl (by simp) ((State.effect_setReg16 _ p _).both (State.effect_setReg16 _ q _))
      (by simpa [State.exchange] using hregs)
  case byteFirst =>
    obtain ⟨heffect, hreg⟩ := (s.advance (.exg (.r8 p) (.r16 q))).exchange8To16_spec p q
    exact completes_of_registers rfl (by simp) heffect (by simpa [State.exchange] using hreg)
  case wordFirst =>
    obtain ⟨heffect, hregs⟩ := (s.advance (.exg (.r16 p) (.r8 q))).exchange16To8_spec p q
    exact completes_of_registers rfl (by simp) heffect (by simpa [State.exchange] using hregs)

end Sys2Proof.Machine
end

section
/-!
SUPPORT. What every instruction but REV and REVW keeps of the invariant, whatever its operands: memory in its canonical
form, stale bytes inside the address space (20_memory.md R80, R101), no evaluation begun, and the parameters. One rule
per operation that stores; an operation that stores nothing keeps each of the fields.
-/

namespace Sys2Proof.Machine

/-- Memory is in its canonical form, and every stale byte lies in the address space. -/
structure Sound (s : State) : Prop where
  memory : Memory.wf s.mem = true
  stale : ∀ c ∈ s.stale, c.1 < 65536

/-- From `s` to `t` what was sound stays sound, no evaluation is begun, and the parameters are kept. -/
structure Steady (s t : State) : Prop where
  config : t.cfg = s.cfg
  sound : Sound s → Sound t
  progress : s.progress = none → t.progress = none
  ruleStores : s.ruleStores = [] → t.ruleStores = []

theorem Steady.refl (s : State) : Steady s s := ⟨rfl, id, id, id⟩

theorem Steady.trans {s t u : State} (h : Steady s t) (h' : Steady t u) : Steady s u :=
  ⟨h'.config.trans h.config, h'.sound ∘ h.sound, h'.progress ∘ h.progress, h'.ruleStores ∘ h.ruleStores⟩

section
variable {s t u : State} (h : Steady s t)
include h

/-- An operation that stores nothing. -/
theorem Steady.quiet
    (hm : u.mem = t.mem := by simp) (hs : u.stale = t.stale := by simp) (hc : u.cfg = t.cfg := by simp)
    (hp : u.progress = t.progress := by simp) (hr : u.ruleStores = t.ruleStores := by simp) : Steady s u :=
  h.trans ⟨hc, fun hs' => ⟨hm ▸ hs'.memory, hs ▸ hs'.stale⟩, hp.trans, hr.trans⟩

theorem Steady.registers {a b ccr ppage : Byte} {x y sp pc : Word} {r : RunState} {draws : Nat} :
    Steady s
      { t with
        a := a, b := b, x := x, y := y, sp := sp, pc := pc, ccr := ccr, ppage := ppage, runState := r,
        draws := draws } :=
  h.quiet rfl rfl rfl rfl rfl

theorem Steady.setA (p : Byte × Byte) : Steady s (t.setA p) := h.registers

theorem Steady.setDFlags (p : Word × Byte) : Steady s (t.setDFlags p) := h.registers

theorem Steady.drawFlags (fs : List Flag) : Steady s (t.drawFlags fs) := h.quiet

theorem Steady.setCcr (c : Byte) : Steady s (t.setCcr c) := h.registers

/-! ## Stores -/

theorem Steady.write8 (a : Word) (v : Byte) : Steady s (t.write8 a v) := by
  refine h.trans ⟨by simp, fun ht => ⟨State.wf_write8 ht.memory a v, fun c hc => ?_⟩, by simp, by simp⟩
  rcases State.mem_stale_write8 hc with e | hc
  · exact e ▸ a.isLt
  · exact ht.stale c hc

theorem Steady.write16 (a v : Word) : Steady s (t.write16 a v) := (h.write8 _ _).write8 _ _

theorem Steady.push8 (v : Byte) : Steady s (t.push8 v) :=
  (h.registers : Steady s { t with sp := t.sp - 1 }).write8 _ _

theorem Steady.push16 (v : Word) : Steady s (t.push16 v) :=
  (h.registers : Steady s { t with sp := t.sp - 2 }).write16 _ _

theorem Steady.stackFrame (rtn : Word) : Steady s (t.stackFrame rtn) :=
  ((((h.push16 _).push16 _).push16 _).push16 _).push8 _

theorem Steady.store8 (m : MemOperand) (value : State → Byte) : Steady s (t.store8 m value) :=
  ((h.quiet : Steady s (t.eaMem m).2).write8 _ _).setCcr _

theorem Steady.store16 (m : MemOperand) (value : State → Word) : Steady s (t.store16 m value) :=
  ((h.quiet : Steady s (t.eaMem m).2).write16 _ _).setCcr _

theorem Steady.modifyAt (ea : Word) (op : Byte → Byte → Byte × Byte) : Steady s (t.modifyAt ea op) :=
  ((h.quiet : Steady s (t.read8 ea).2).write8 _ _).setCcr _

theorem Steady.rmw (m : RmwOperand) (op : Byte → Byte → Byte × Byte) : Steady s (t.rmw m op) :=
  (h.quiet : Steady s (t.eaRmw m).2).modifyAt _ _

theorem Steady.modifyBits (m : BitOperand) (op : Byte → Byte) : Steady s (t.modifyBits m op) :=
  (h.quiet : Steady s (t.eaBit m).2).modifyAt _ fun ccr v => (op v, logicFlags8 ccr (op v))

theorem Steady.moveByte (src : MoveSource8) (dst : MoveDest) : Steady s (t.moveByte src dst) :=
  (h.quiet : Steady s ((t.moveSource8 src).2.eaDest dst).2).write8 _ _

theorem Steady.moveWord (src : MoveSource16) (dst : MoveDest) : Steady s (t.moveWord src dst) :=
  (h.quiet : Steady s ((t.moveSource16 src).2.eaDest dst).2).write16 _ _

theorem Steady.choose8 (f : IdxFull) (pick : Byte → Byte → Byte) : Steady s (t.choose8 f pick) :=
  ((h.quiet : Steady s ((t.eaFull f).2.read8 (t.eaFull f).1).2).write8 _ _).setCcr _

theorem Steady.choose16 (f : IdxFull) (pick : Word → Word → Word) : Steady s (t.choose16 f pick) :=
  ((h.quiet : Steady s ((t.eaFull f).2.read16 (t.eaFull f).1).2).write16 _ _).setCcr _

theorem Steady.multiplyAccumulate (ea : Word) : Steady s (t.multiplyAccumulate ea) :=
  have hread : Steady s ((((t.read16 t.x).2.read16 t.y).2.read16 ea).2.read16 (ea + 2)).2 := h.quiet
  ((hread.write16 _ _).write16 _ _).setCcr _

/-! ## Changes of flow -/

/-- Giving up the queue leaves no stale byte (20_memory.md R102). -/
theorem Steady.refill : Steady s t.refill := h.trans ⟨rfl, fun ht => ⟨ht.memory, by simp⟩, id, id⟩

theorem Steady.jump (target : Word) : Steady s (t.jump target) := h.refill.quiet

theorem Steady.branch (taken : Bool) (off : Word) : Steady s (t.branch taken off) := by
  cases taken with
  | false => exact h
  | true => exact h.jump _

theorem Steady.vectorTo (v : Word) (setX : Bool) : Steady s (t.vectorTo v setX) :=
  h.trans ⟨by simp [State.vectorTo], fun ht => ⟨by simpa [State.vectorTo] using ht.memory,
    by simpa [State.vectorTo] using ht.stale⟩, by simp [State.vectorTo], by simp [State.vectorTo]⟩

theorem Steady.exceptionSequence (rtn v : Word) (setX : Bool) : Steady s (t.exceptionSequence rtn v setX) := by
  rcases t.exceptionSequence_cases rtn v setX with e | e <;> rw [e]
  · exact (h.stackFrame rtn).vectorTo v setX
  · exact h.vectorTo v setX

theorem Steady.takeException (rtn v : Word) (setX : Bool) : Steady s (t.takeException rtn v setX) :=
  h.refill.exceptionSequence rtn v setX

/-- A reset sequence after bytes were left with any value (70_reset_and_hazards.md R611). -/
theorem Steady.resetDrawn (n : Nat) (l : List Word) (v : Word) :
    Steady s (({ t with draws := n }.drawBytes l).resetSequence v) := by
  obtain ⟨-, -, hm, hp, hr, -, hs, -, hc⟩ := ({ t with draws := n }.drawBytes l).resetSequence_leaves v
  refine h.trans ⟨by simp [hc], fun ht => ⟨?_, by simp [hs]⟩, fun _ => hp, fun _ => hr⟩
  rw [hm]
  exact (State.drawBytes_leaves l (s := { t with draws := n }) ht.memory).1

theorem Steady.cutOff (c : ResetCause) (w : State) : Steady s (t.cutOff c w) := h.resetDrawn _ _ _

theorem Steady.takeEvent (e : Event) : Steady s (t.takeEvent e) := by
  cases e with
  | reset v => exact h.resetDrawn t.draws _ _
  | interrupt v setX => exact h.takeException _ _ _
  | resume => exact h.registers

/-- Work that a reset cuts off or not. -/
theorem Steady.unlessCut {work : State → State} (r : Requests) (hw : Steady s (work t)) :
    Steady s (t.unlessCut r work) := by
  unfold State.unlessCut
  cases r.cutBy with
  | none => exact hw
  | some c => exact h.cutOff _ _

/-! ## Multiply, divide, tables, exchanges -/

theorem Steady.extendedCorner (op : DivOp) (byZero : Bool) : Steady s (t.extendedCorner op byZero) := by
  cases byZero <;> exact h.quiet rfl rfl rfl rfl rfl

theorem Steady.signedCorner (byZero : Bool) : Steady s (t.signedCorner byZero) := by
  cases byZero <;> exact h.quiet rfl rfl rfl rfl rfl

theorem Steady.divideExtended : Steady s t.divideExtended := by
  unfold State.divideExtended
  simp only
  split
  · exact h.extendedCorner _ _
  · split
    · exact h.extendedCorner _ _
    · exact h.registers

theorem Steady.divideExtendedSigned : Steady s t.divideExtendedSigned := by
  unfold State.divideExtendedSigned
  simp only
  split
  · exact h.extendedCorner _ _
  · split
    · exact h.extendedCorner _ _
    · exact h.registers

theorem Steady.divideFraction : Steady s t.divideFraction := by
  unfold State.divideFraction
  simp only
  split
  · exact h.registers
  · split <;> exact h.registers

theorem Steady.divideInteger : Steady s t.divideInteger := by
  unfold State.divideInteger
  simp only
  split <;> exact h.registers

theorem Steady.divideSigned : Steady s t.divideSigned := by
  unfold State.divideSigned
  simp only
  split
  · exact h.signedCorner _
  · split
    · exact h.signedCorner _
    · exact h.registers

theorem Steady.tableCarry (product : Int) : Steady s (t.tableCarry product) := by
  unfold State.tableCarry
  cases t.cfg.variant <;> exact h.registers

theorem Steady.setReg8 (r : Reg8) (v : Byte) : Steady s (t.setReg8 r v) := h.quiet

theorem Steady.setReg16 (r : Reg16) (v : Word) : Steady s (t.setReg16 r v) := h.quiet

theorem Steady.setAutoBase (r : AutoBase) (v : Word) : Steady s (t.setAutoBase r v) := h.quiet

theorem Steady.transfer (r1 r2 : Reg) : Steady s (t.transfer r1 r2) := by
  rcases r1 with p | p <;> rcases r2 with q | q
  · exact h.setReg8 _ _
  · exact h.setReg16 _ _
  · exact h.setReg8 _ _
  · exact h.setReg16 _ _

theorem Steady.exchange8To16 (p : Reg8) (q : Reg16) : Steady s (t.exchange8To16 p q) := by
  unfold State.exchange8To16
  have ht := h.setReg16 q ((t.getReg8 p).zeroExtend 16)
  split
  · exact ht
  · exact ht
  · exact (ht.registers : Steady s (t.setReg16 q _).drawByte.2).setReg8 _ _

theorem Steady.exchange16To8 (p : Reg16) (q : Reg8) : Steady s (t.exchange16To8 p q) := by
  unfold State.exchange16To8
  simp only
  split
  · exact h.registers
  · exact h.registers
  · exact ((h.registers : Steady s t.drawByte.2).setReg16 _ _).setReg8 _ _

theorem Steady.exchange (r1 r2 : Reg) : Steady s (t.exchange r1 r2) := by
  rcases r1 with p | p <;> rcases r2 with q | q
  · exact (h.setReg8 _ _).setReg8 _ _
  · exact h.exchange8To16 p q
  · exact h.exchange16To8 p q
  · exact (h.setReg16 _ _).setReg16 _ _

/-! ## Operands -/

theorem Steady.advance (i : Instr) : Steady s (t.advance i) := h.quiet

theorem Steady.operand8 (o : Operand8) : Steady s (t.operand8 o).2 := h.quiet

theorem Steady.operand16 (o : Operand16) : Steady s (t.operand16 o).2 := h.quiet

theorem Steady.eaMem (m : MemOperand) : Steady s (t.eaMem m).2 := h.quiet

theorem Steady.eaRmw (m : RmwOperand) : Steady s (t.eaRmw m).2 := h.quiet

theorem Steady.eaBit (m : BitOperand) : Steady s (t.eaBit m).2 := h.quiet

theorem Steady.eaDirect (f : IdxDirect) : Steady s (t.eaDirect f).2 := h.quiet

theorem Steady.eaFull (f : IdxFull) : Steady s (t.eaFull f).2 := h.quiet

theorem Steady.eaShort (f : IdxShort) : Steady s (t.eaShort f).2 := h.quiet

theorem Steady.callTarget (ct : CallTarget) : Steady s (t.callTarget ct).2.2 := h.quiet

theorem Steady.addCounter (r : LoopReg) (k : Int) : Steady s (t.addCounter r k) := h.quiet

theorem Steady.sample : Steady s t.sample.2 := h.quiet

theorem Steady.read8 (a : Word) : Steady s (t.read8 a).2 := h.quiet

theorem Steady.read16 (a : Word) : Steady s (t.read16 a).2 := h.quiet

theorem Steady.pull8 : Steady s t.pull8.2 := h.quiet

theorem Steady.pull16 : Steady s t.pull16.2 := h.quiet

/-! ## Fuzzy logic -/

/-- The sums are stacked below SP (46_fuzzy.md R528). -/
theorem Steady.wavInterrupt (sums : Sums) (resumeAt : Word) (e : Event) :
    Steady s (t.wavInterrupt sums resumeAt e) := by
  cases e with
  | reset v => exact h.takeEvent (.reset v)
  | interrupt v setX => exact (((h.refill.push16 _).push16 _).push16 _).exceptionSequence _ _ _
  | resume => exact h

theorem Steady.wavFinish (sums : Sums) (pcEnd : Word) : Steady s (t.wavFinish sums pcEnd) :=
  (h.registers : Steady s { t.setD (sums.sop.extractLsb' 0 16) with
    y := sums.sop.extractLsb' 16 16, x := sums.sow, pc := pcEnd, ccr := setFlag t.ccr .z true }).drawFlags _

end

section
variable {i : Instr} {s t u : State}

/-- The loop of WAV, by its elements (46_fuzzy.md R527). -/
theorem Steady.wavLoop {resumeAt pcEnd : Word} (n : Nat) (sums : Sums) (h : Steady s t) :
    Steady s (wavLoop resumeAt pcEnd n sums t) := by
  induction n generalizing sums t with
  | zero => exact h.wavFinish sums pcEnd
  | succ n ih =>
    have hq := ((h.read8 t.y).read8 t.x).sample
    unfold Machine.wavLoop
    refine hq.unlessCut _ ?_
    cases he : State.eventOf _ _ with
    | none => exact ih _ hq.registers
    | some e => exact hq.wavInterrupt _ _ e

/-- An instruction that answers the result of a steady operation. -/
theorem steady_next (hx : exec i s = .next t) (hu : exec i s = .next u) (h : Steady s u) : Steady s t :=
  Host.Outcome.next.inj (hu.symm.trans hx) ▸ h

/-- A load of an effective address, where it is not refused (40_load_store_lea.md R174). -/
theorem steady_lea {f : IdxDirect} {own : AutoBase} (hx : exec i s = .next t)
    (hu : exec i s = leaInto f own (s.advance i)) : Steady s t := by
  rw [hu, leaInto] at hx
  split at hx
  · cases hx
  · exact Host.Outcome.next.inj hx ▸ (((Steady.refl s).advance i).eaDirect f).setAutoBase _ _

/-- Every instruction but REV and REVW. -/
theorem exec_steady (hrev : i ≠ .rev) (hrevw : i ≠ .revw) (hx : exec i s = .next t) : Steady s t := by
  have hs := Steady.refl s
  cases i
  -- loads, stores, addresses
  case ldaa o | ldab o => exact steady_next hx rfl ((hs.advance _).operand8 o).registers
  case ldd o | ldx o | ldy o | lds o => exact steady_next hx rfl ((hs.advance _).operand16 o).registers
  case staa m | stab m => exact steady_next hx rfl ((hs.advance _).store8 m _)
  case std m | stx m | sty m | sts m => exact steady_next hx rfl ((hs.advance _).store16 m _)
  case adda o | adca o | addb o | adcb o | suba o | sbca o | subb o | sbcb o | anda o | oraa o | eora o | andb o
      | orab o | eorb o | cmpa o | cmpb o | bita o | bitb o =>
    exact steady_next hx rfl ((hs.advance _).operand8 o).registers
  case addd o | subd o | cpd o | cpx o | cpy o | cps o =>
    exact steady_next hx rfl ((hs.advance _).operand16 o).registers
  case tst m => exact steady_next hx rfl (((hs.advance _).eaRmw m).read8 _).registers
  case leax f | leay f | leas f => exact steady_lea hx rfl
  -- registers and flags alone
  case abx | aby | des | ins | tpa | tsx | tsy | txs | tys | xgdx | xgdy | tab | tba | tap | andcc imm | orcc imm
      | aba | sba | cba | tsta | tstb | clra | clrb | daa | inx | iny | dex | dey | clc | cli | clv | sec | sei | sev
      | inca | deca | nega | coma | incb | decb | negb | comb | lsla | asla | asra | lsra | rola | rora
      | lslb | aslb | asrb | lsrb | rolb | rorb | lsld | asld | lsrd | mul | emul | emuls | nop =>
    exact steady_next hx rfl hs.registers
  case sex r1 r2 => exact steady_next hx rfl ((hs.advance _).setReg16 r2 _)
  case tfr r1 r2 => exact steady_next hx rfl ((hs.advance _).transfer r1 r2)
  case exg r1 r2 => exact steady_next hx rfl ((hs.advance _).exchange r1 r2)
  case ediv => exact steady_next hx rfl (hs.advance _).divideExtended
  case edivs => exact steady_next hx rfl (hs.advance _).divideExtendedSigned
  case fdiv => exact steady_next hx rfl (hs.advance _).divideFraction
  case idiv => exact steady_next hx rfl (hs.advance _).divideInteger
  case idivs => exact steady_next hx rfl (hs.advance _).divideSigned
  case maxa f | mina f => exact steady_next hx rfl (((hs.advance _).eaFull f).read8 _).registers
  case emaxd f | emind f => exact steady_next hx rfl (((hs.advance _).eaFull f).read16 _).registers
  case tbl f =>
    exact steady_next hx rfl (((((hs.advance _).eaShort f).read8 _).read8 _).setA _ |>.tableCarry _)
  case etbl f =>
    exact steady_next hx rfl (((((hs.advance _).eaShort f).read16 _).read16 _).setDFlags _ |>.tableCarry _)
  -- bytes of memory
  case movb src dst =>
    change execMovb src dst s = _ at hx
    unfold execMovb at hx
    split at hx
    · cases hx
    · exact Host.Outcome.next.inj hx ▸ ((hs.advance _).moveByte src dst)
  case movw src dst =>
    change execMovw src dst s = _ at hx
    unfold execMovw at hx
    split at hx
    · cases hx
    · exact Host.Outcome.next.inj hx ▸ (hs.advance _).moveWord src dst
  case inc m | dec m | neg m | com m | lsl m | asl m | asr m | lsr m | rol m | ror m =>
    exact steady_next hx rfl ((hs.advance _).rmw m _)
  case clr m => exact steady_next hx rfl ((((hs.advance _).eaRmw m).write8 _ _).setCcr _)
  case bset m mask | bclr m mask => exact steady_next hx rfl ((hs.advance _).modifyBits m _)
  case emacs addr => exact steady_next hx rfl ((hs.advance _).multiplyAccumulate addr)
  case maxm f | minm f => exact steady_next hx rfl ((hs.advance _).choose8 f _)
  case emaxm f | eminm f => exact steady_next hx rfl ((hs.advance _).choose16 f _)
  case mem =>
    refine steady_next hx rfl (Steady.drawFlags (Steady.registers (Steady.write8 ?_ _ _)) _)
    exact ((((hs.advance _).read8 _).read8 _).read8 _).read8 _
  -- the stack
  case psha | pshb | pshc => exact steady_next hx rfl ((hs.advance _).push8 _)
  case pshd | pshx | pshy => exact steady_next hx rfl ((hs.advance _).push16 _)
  case pula | pulb | pulc => exact steady_next hx rfl (hs.advance _).pull8.registers
  case puld | pulx | puly => exact steady_next hx rfl (hs.advance _).pull16.registers
  -- changes of flow
  case bra rel | lbra rel | brn rel | lbrn rel | bhi rel | lbhi rel | bls rel | lbls rel | bcc rel | lbcc rel
      | bhs rel | lbhs rel | bcs rel | lbcs rel | blo rel | lblo rel | bne rel | lbne rel | beq rel | lbeq rel
      | bvc rel | lbvc rel | bvs rel | lbvs rel | bpl rel | lbpl rel | bmi rel | lbmi rel | bge rel | lbge rel
      | blt rel | lblt rel | bgt rel | lbgt rel | ble rel | lble rel =>
    exact steady_next hx rfl ((hs.advance _).branch _ _)
  case brclr m mask rel | brset m mask rel =>
    exact steady_next hx rfl ((((hs.advance _).eaBit m).read8 _).branch _ _)
  case dbeq r off | dbne r off | ibeq r off | ibne r off | tbeq r off | tbne r off =>
    exact steady_next hx rfl (((hs.advance _).addCounter r _).branch _ _)
  case jmp m => exact steady_next hx rfl (((hs.advance _).eaRmw m).jump _)
  case jsr m => exact steady_next hx rfl (((hs.advance _).eaMem m).refill.push16 _).registers
  case bsr rel => exact steady_next hx rfl ((hs.advance _).refill.push16 _).registers
  case call ct => exact steady_next hx rfl ((((hs.advance _).callTarget ct).refill.push16 _).push8 _).registers
  case rts => exact steady_next hx rfl ((hs.advance _).pull16.jump _)
  case rtc => exact steady_next hx rfl ((hs.advance _).pull8.registers.pull16.jump _)
  case rti =>
    refine steady_next hx rfl (Steady.jump (Steady.registers ?_) _)
    exact (hs.advance _).pull8.registers.pull8.pull8.pull16.pull16.pull16
  case swi | trap tn => exact steady_next hx rfl ((hs.advance _).takeException _ _ _)
  case wai => exact steady_next hx rfl ((hs.advance _).stackFrame _).registers
  case stop =>
    change execStop s = _ at hx
    unfold execStop at hx
    simp only at hx
    split at hx
    · exact Host.Outcome.next.inj hx ▸ hs.advance _
    · exact Host.Outcome.next.inj hx ▸ ((hs.advance _).stackFrame _).registers
  case bgnd =>
    change execBgnd s = _ at hx
    unfold execBgnd at hx
    simp only at hx
    split at hx
    · exact Host.Outcome.next.inj hx ▸ hs.registers
    · exact Host.Outcome.next.inj hx ▸ hs.advance _
  -- fuzzy logic
  case rev => exact absurd rfl hrev
  case revw => exact absurd rfl hrevw
  case wav =>
    change execWav s = _ at hx
    unfold execWav at hx
    split at hx
    · cases hx
    · exact Host.Outcome.next.inj hx ▸ Steady.wavLoop _ _ hs
  case wavr =>
    change execWavr s = _ at hx
    unfold execWavr at hx
    split at hx
    · cases hx
    · exact Host.Outcome.next.inj hx ▸ Steady.wavLoop _ _ hs.pull16.pull16.pull16

end

end Sys2Proof.Machine
end

section
/-!
PROOFS. Every step keeps the invariant of the machine (20_memory.md R80, R100, R101; 46_fuzzy.md R530): REV and REVW by
the turns of their loop, every other instruction by `exec_steady`, and a reset because it begins everything anew.
-/

namespace Sys2Proof.Machine

/-! ## Between two steps, and inside an evaluation -/

/-- The invariant without the queue, which reading ahead establishes at the end of a step. -/
structure Lasting (s : State) : Prop where
  sound : Sound s
  progressRuns : s.progress ≠ none → s.runState = .running
  ruleStoresRun : s.progress = none → s.ruleStores = []

/-- A state inside REV or REVW: the CPU runs, and the evaluation is not yet marked as unfinished. -/
structure Evaluating (s : State) : Prop where
  sound : Sound s
  running : s.runState = .running
  unmarked : s.progress = none

/-- From `s` to `t` the parameters are kept, and `P` before gives `Q` after. -/
structure Carries (P Q : State → Prop) (s t : State) : Prop where
  config : t.cfg = s.cfg
  holds : P s → Q t

theorem Carries.trans {P Q R : State → Prop} {s t u : State} (h : Carries P Q s t) (h' : Carries Q R t u) :
    Carries P R s u := ⟨h'.config.trans h.config, h'.holds ∘ h.holds⟩

theorem Inv.lasting {s : State} (h : Inv s) : Lasting s :=
  ⟨⟨h.memory, h.staleInSpace⟩, h.progressRuns, h.ruleStoresRun⟩

/-- Reading ahead brings the queue to the three words from PC on (20_memory.md R100). -/
theorem Lasting.readAhead {s : State} (h : Lasting s) : Inv s.readAhead where
  memory := by simpa using h.sound.memory
  queueAhead := .inr (by rw [State.readAhead_addresses]; simp [State.queueBase])
  staleInSpace := by simpa using h.sound.stale
  progressRuns := by simpa using h.progressRuns
  ruleStoresRun := by simpa using h.ruleStoresRun

/-- Where no evaluation is unfinished and none has stored. -/
theorem Lasting.of_idle {s : State} (h : Sound s) (hp : s.progress = none) (hr : s.ruleStores = []) : Lasting s :=
  ⟨h, fun hn => absurd hp hn, fun _ => hr⟩

section
variable {s t : State}

theorem Steady.lasting (h : Steady s t) (hs : Sound s) (hp : s.progress = none) (hr : s.ruleStores = []) :
    Lasting t := .of_idle (h.sound hs) (h.progress hp) (h.ruleStores hr)

theorem Steady.evaluating (h : Steady s t) (hr : t.runState = s.runState) : Carries Evaluating Evaluating s t :=
  ⟨h.config, fun hs => ⟨h.sound hs.sound, hr.trans hs.running, h.progress hs.unmarked⟩⟩

/-! ## Events -/

/-- A reset leaves no evaluation, whatever was drawn before it (70_reset_and_hazards.md R611). -/
theorem State.resetDrawn_lasting (s : State) (n : Nat) (l : List Word) (v : Word) :
    Carries Sound Lasting s (({ s with draws := n }.drawBytes l).resetSequence v) := by
  obtain ⟨-, -, -, hp, hr, -⟩ := ({ s with draws := n }.drawBytes l).resetSequence_leaves v
  have h := (Steady.refl s).resetDrawn n l v
  exact ⟨h.config, fun hs => .of_idle (h.sound hs) hp hr⟩

theorem State.cutOff_lasting (s : State) (c : ResetCause) (t : State) : Carries Sound Lasting s (s.cutOff c t) :=
  s.resetDrawn_lasting _ _ _

/-- An exception entry leaves no evaluation (60_exceptions.md R570). -/
theorem State.takeException_lasting (s : State) (rtn v : Word) (setX : Bool) :
    Carries Sound Lasting s (s.takeException rtn v setX) := by
  have h := (Steady.refl s).takeException rtn v setX
  refine ⟨h.config, fun hs => ?_⟩
  have hs' := h.sound hs
  rw [State.takeException] at hs' ⊢
  rcases s.refill.exceptionSequence_cases rtn v setX with e | e <;> rw [e] at hs' ⊢
  · exact .of_idle hs' (by simp [State.vectorTo]) (by simp [State.vectorTo])
  · exact .of_idle hs' (by simp [State.vectorTo]) (by simp [State.vectorTo])

/-- The maskable requests are interrupts. -/
theorem State.maskableEvent_ne_resume (s : State) (r : Requests) : s.maskableEvent r ≠ some .resume := by
  unfold State.maskableEvent
  simp only
  split
  · simp
  · split <;> simp

/-- Only a Stopped CPU resumes without an exception (60_exceptions.md R580). -/
theorem State.stopped_of_resume {r : Requests} (h : s.eventOf r = some .resume) : s.runState = .stopped := by
  unfold State.eventOf at h
  iterate 5
    split at h
    · cases h
  split at h
  case h_1 e hv => exact absurd (hv.trans h) (s.maskableEvent_ne_resume r)
  case h_2 =>
    split at h
    case isTrue hw => exact of_decide_eq_true (Bool.and_eq_true_iff.mp hw).2
    case isFalse => cases h

/-- An event between two steps. -/
theorem State.takeEvent_lasting (s : State) (e : Event) : Carries Lasting Lasting s (s.takeEvent e) := by
  have weaken {t : State} (h : Carries Sound Lasting s t) : Carries Lasting Lasting s t :=
    ⟨h.config, fun hs => h.holds hs.sound⟩
  cases e with
  | reset v => exact weaken (s.resetDrawn_lasting s.draws _ _)
  | interrupt v setX => exact weaken (s.takeException_lasting _ _ _)
  | resume => exact ⟨rfl, fun hs => ⟨⟨hs.sound.memory, hs.sound.stale⟩, fun _ => rfl, hs.ruleStoresRun⟩⟩

/-- An event inside an evaluation (46_fuzzy.md R524). -/
theorem State.takeEvent_evaluating {e : Event} {r : Requests} (he : s.eventOf r = some e) :
    Carries Evaluating Lasting s (s.takeEvent e) := by
  have weaken {t : State} (h : Carries Sound Lasting s t) : Carries Evaluating Lasting s t :=
    ⟨h.config, fun hs => h.holds hs.sound⟩
  cases e with
  | reset v => exact weaken (s.resetDrawn_lasting s.draws _ _)
  | interrupt v setX => exact weaken (s.takeException_lasting _ _ _)
  | resume => exact ⟨rfl, fun hs => nomatch (State.stopped_of_resume he).symm.trans hs.running⟩

/-! ## REV and REVW -/

theorem State.unlessCut_evaluating {r : Requests} {work : State → State}
    (hw : Carries Evaluating Lasting s (work s)) : Carries Evaluating Lasting s (s.unlessCut r work) := by
  unfold State.unlessCut
  cases r.cutBy with
  | none => exact hw
  | some c => exact ⟨(s.cutOff_lasting _ _).config, fun hs => (s.cutOff_lasting _ _).holds hs.sound⟩

/-- The mark of an evaluation that goes on in the next step (log entry 9). -/
theorem State.pause_evaluating (s : State) (k : Progress) :
    Carries Evaluating Lasting s { s with progress := some k } :=
  ⟨rfl, fun hs => ⟨⟨hs.sound.memory, hs.sound.stale⟩, fun _ => hs.running, fun h => nomatch h⟩⟩

/-- The rule loop, by its turns (46_fuzzy.md R523 to R525). -/
theorem ruleLoop_lasting {turn : State → RuleTurn} {finish : State → State} {kind : Progress}
    (hturn : ∀ s t, turn s = .finished t ∨ turn s = .again t → Carries Evaluating Evaluating s t)
    (hfin : ∀ t, Steady t (finish t)) (fuel : Nat) (s : State) :
    Carries Evaluating Lasting s (ruleLoop turn finish kind fuel s) := by
  induction fuel generalizing s with
  | zero => exact State.pause_evaluating s kind
  | succ fuel ih =>
    unfold ruleLoop
    cases ht : turn s with
    | finished t =>
      refine (hturn s t (.inl ht)).trans ⟨(hfin _).config, fun h => ?_⟩
      exact (hfin { t with ruleStores := [] }).lasting ⟨h.sound.memory, h.sound.stale⟩ h.unmarked rfl
    | again t =>
      refine (hturn s t (.inr ht)).trans ?_
      cases fuel with
      | zero => exact State.pause_evaluating t kind
      | succ more =>
        refine ((Steady.refl t).sample.evaluating (by simp)).trans (State.unlessCut_evaluating ?_)
        cases he : t.sample.2.eventOf t.sample.1 with
        | none => exact ih _
        | some e => exact State.takeEvent_evaluating he

/-- A consequent raised stores one byte. -/
theorem State.raiseOutput_evaluating (s : State) (ea : Word) : Carries Evaluating Evaluating s (s.raiseOutput ea) :=
  ((Steady.refl s).write8 ea s.a |>.evaluating (by simp)).trans
    ⟨rfl, fun h => ⟨⟨h.sound.memory, h.sound.stale⟩, h.running, h.unmarked⟩⟩

theorem State.revElement_evaluating (s : State) (rx : Byte) : Carries Evaluating Evaluating s (s.revElement rx) := by
  have hs := Steady.refl s
  unfold State.revElement
  simp only
  split
  · exact hs.registers.evaluating rfl
  · have hread := (hs.read8 (s.y + rx.zeroExtend 16)).evaluating (by simp)
    split
    · split
      · exact hread.trans (State.raiseOutput_evaluating _ _)
      · exact hread
    · exact (hs.read8 _).registers.evaluating (by simp)

theorem State.revwElement_evaluating (s : State) (rx : Word) : Carries Evaluating Evaluating s (s.revwElement rx) := by
  have hs := Steady.refl s
  unfold State.revwElement
  simp only
  split
  · split
    · exact hs.registers.evaluating rfl
    · split
      · exact (hs.read8 _).registers.evaluating (by simp)
      · exact hs.registers.evaluating rfl
  · have hread := (hs.read8 rx).evaluating (by simp)
    split
    · split
      · exact hread.trans (State.raiseOutput_evaluating _ _)
      · exact hread
    · exact (hs.read8 _).registers.evaluating (by simp)

theorem State.revTurn_evaluating (ht : s.revTurn = .finished t ∨ s.revTurn = .again t) :
    Carries Evaluating Evaluating s t := by
  have hu : Carries Evaluating Evaluating s { (s.read8 s.x).2 with x := s.x + 1 } :=
    ((Steady.refl s).read8 s.x).registers.evaluating (by simp)
  unfold State.revTurn at ht
  simp only at ht
  split at ht
  · simp only [RuleTurn.finished.injEq, reduceCtorEq, or_false] at ht
    exact ht ▸ hu
  · simp only [RuleTurn.again.injEq, reduceCtorEq, false_or] at ht
    exact ht ▸ hu.trans (State.revElement_evaluating _ _)

theorem State.revwTurn_evaluating (ht : s.revwTurn = .finished t ∨ s.revwTurn = .again t) :
    Carries Evaluating Evaluating s t := by
  have hu : Carries Evaluating Evaluating s { (s.read16 s.x).2 with x := s.x + 2 } :=
    ((Steady.refl s).read16 s.x).registers.evaluating (by simp)
  unfold State.revwTurn at ht
  simp only at ht
  split at ht
  · simp only [RuleTurn.finished.injEq, reduceCtorEq, or_false] at ht
    exact ht ▸ hu
  · simp only [RuleTurn.again.injEq, reduceCtorEq, false_or] at ht
    exact ht ▸ hu.trans (State.revwElement_evaluating _ _)

/-- REV and REVW, begun or gone on with. -/
theorem exec_rule_lasting {i : Instr} (hi : i = .rev ∨ i = .revw) (hx : exec i s = .next t) :
    Carries Evaluating Lasting s t := by
  obtain rfl | rfl := hi
  · exact Host.Outcome.next.inj hx ▸ ruleLoop_lasting (fun _ _ => State.revTurn_evaluating)
      (fun t => ((Steady.refl t).advance .rev).drawFlags _) _ s
  · exact Host.Outcome.next.inj hx ▸ ruleLoop_lasting (fun _ _ => State.revwTurn_evaluating)
      (fun t => ((Steady.refl t).advance .revw).drawFlags _) _ s

/-! ## The step -/

/-- Every instruction, where no evaluation is unfinished. -/
theorem exec_lasting {i : Instr} (hrun : s.runState = .running) (hp : s.progress = none) (hx : exec i s = .next t) :
    Carries Lasting Lasting s t := by
  by_cases hi : i = .rev ∨ i = .revw
  · have h := exec_rule_lasting hi hx
    exact ⟨h.config, fun hs => h.holds ⟨hs.sound, hrun, hp⟩⟩
  · have h := exec_steady (fun e => hi (.inl e)) (fun e => hi (.inr e)) hx
    exact ⟨h.config, fun hs => h.lasting hs.sound hp (hs.ruleStoresRun hp)⟩

/-- While the CPU waits it has nothing to do (10_state.md R39). -/
theorem State.quietWork_wait (h : s.runState = .waiting ∨ s.runState = .stopped) : s.quietWork = (.wait, s) := by
  unfold State.quietWork
  rcases h with h | h <;> rw [h]

/-- A running CPU goes on with an unfinished evaluation (log entry 9). -/
theorem State.quietWork_goOn {k : Progress} (h : s.runState = .running) (hp : s.progress = some k) :
    s.quietWork = (.goOn k, { s with progress := none }) := by
  unfold State.quietWork
  rw [h, hp]

/-- Else it fetches (30_encoding.md R111). -/
theorem State.quietWork_fetch (h : s.runState = .running) (hp : s.progress = none) : s.quietWork = s.fetchWork := by
  unfold State.quietWork
  rw [h, hp]

theorem State.fetchWork_ok {i : Instr} {rest : List Byte} (h : decode s.fetch.1 = .ok i rest) :
    s.fetchWork = (.run i, s.fetch.2) := by
  simp only [State.fetchWork, h]

theorem State.fetchWork_bad {e : DecodeError} (h : decode s.fetch.1 = .bad e) :
    s.fetchWork = (.reserved e, s.fetch.2) := by
  simp only [State.fetchWork, h]

theorem State.perform_event (s : State) (e : Event) : s.perform (.event e) = settle (.next (s.takeEvent e)) := rfl

theorem State.perform_rev (s : State) : s.perform (.goOn .rev) = settle (exec .rev s) := rfl

theorem State.perform_revw (s : State) : s.perform (.goOn .revw) = settle (exec .revw s) := rfl

theorem State.perform_run (s : State) (i : Instr) : s.perform (.run i) = settle (exec i s) := rfl

/-- Work that ends by reading ahead. -/
theorem State.perform_settles {w : Work} {r : Result} (hw : s.perform w = settle r) (h : s.perform w = .next t) :
    ∃ v, t = v.readAhead ∧ r = .next v := by
  obtain ⟨v, hv, e⟩ := settle_eq_next.mp (hw.symm.trans h)
  exact ⟨v, e, hv⟩

/-- The work that a step does where no event is taken: nothing, an instruction on the state after the fetch, or a rule
evaluation once more. -/
theorem State.quietWork_perform (h : s.quietWork.2.perform s.quietWork.1 = .next t) :
    t = s ∨ ∃ v, t = v.readAhead ∧ s.runState = .running ∧
      ((s.progress = none ∧ ∃ i q n, exec i { s with queue := q, draws := n } = .next v) ∨
        ∃ i, (i = .rev ∨ i = .revw) ∧ exec i { s with progress := none } = .next v) := by
  cases hrun : s.runState with
  | waiting => rw [State.quietWork_wait (.inl hrun)] at h; exact .inl (Host.Outcome.next.inj h).symm
  | stopped => rw [State.quietWork_wait (.inr hrun)] at h; exact .inl (Host.Outcome.next.inj h).symm
  | background => simp only [State.quietWork, hrun] at h; cases h
  | running =>
    right
    rw [← hrun]
    cases hp : s.progress with
    | some k =>
      rw [State.quietWork_goOn hrun hp] at h
      cases k with
      | rev =>
        obtain ⟨v, hv, hx⟩ := State.perform_settles (State.perform_rev _) h
        exact ⟨v, hv, rfl, .inr ⟨.rev, .inl rfl, hx⟩⟩
      | revw =>
        obtain ⟨v, hv, hx⟩ := State.perform_settles (State.perform_revw _) h
        exact ⟨v, hv, rfl, .inr ⟨.revw, .inr rfl, hx⟩⟩
    | none =>
      rw [State.quietWork_fetch hrun hp] at h
      cases hd : decode s.fetch.1 with
      | ok i rest =>
        rw [State.fetchWork_ok hd] at h
        obtain ⟨v, hv, hx⟩ := State.perform_settles (State.perform_run _ i) h
        rw [State.fetch_frame, hp] at hx
        exact ⟨v, hv, rfl, .inl ⟨rfl, i, _, _, hx⟩⟩
      | bad e => rw [State.fetchWork_bad hd] at h; cases h

/-- Choosing the work, a fetch included, leaves memory and the stale bytes alone. -/
theorem State.work_sound (r : Requests) : Carries Sound Sound s (s.work r).2 := by
  have hquiet : Steady s s.quietWork.2 := by
    unfold State.quietWork
    split
    · exact .refl s
    · exact .refl s
    · exact .refl s
    · split
      · exact ⟨rfl, fun h => ⟨h.memory, h.stale⟩, fun _ => rfl, id⟩
      · unfold State.fetchWork
        simp only
        split
        · exact (Steady.refl s).quiet
        · exact (Steady.refl s).quiet
  unfold State.work
  split
  · exact ⟨rfl, id⟩
  · exact ⟨hquiet.config, hquiet.sound⟩

/-- A step ends in a state that was waiting, or reads ahead after a state with the rest of the invariant. -/
theorem State.perform_work {r : Requests} (h : (s.work r).2.perform (s.work r).1 = .next t) :
    t = s ∨ ∃ v, t = v.readAhead ∧ Carries Lasting Lasting s v := by
  cases he : s.eventOf r with
  | some e =>
    rw [State.work_event he] at h
    obtain ⟨v, hv, hx⟩ := State.perform_settles (State.perform_event _ e) h
    exact .inr ⟨v, hv, Host.Outcome.next.inj hx ▸ s.takeEvent_lasting e⟩
  | none =>
    rw [State.work_quiet he] at h
    refine (State.quietWork_perform h).imp_right fun ⟨v, hv, hrun, hx⟩ => ⟨v, hv, ?_⟩
    rcases hx with ⟨hp, i, q, n, hx⟩ | ⟨i, hi, hx⟩
    · have hv := exec_lasting (s := { s with queue := q, draws := n }) hrun hp hx
      exact ⟨hv.config, fun hs => hv.holds
        ⟨⟨hs.sound.memory, hs.sound.stale⟩, hs.progressRuns, hs.ruleStoresRun⟩⟩
    · have hv := exec_rule_lasting hi hx
      exact ⟨hv.config, fun hs => hv.holds ⟨⟨hs.sound.memory, hs.sound.stale⟩, hrun, rfl⟩⟩

/-- A step cut off by a reset reads ahead after the reset sequence (70_reset_and_hazards.md R611). -/
theorem State.performCut_work {w : Work} {c : ResetCause} (h : s.performCut w c = .next t) :
    ∃ v, t = v.readAhead ∧ Carries Sound Lasting s v := by
  unfold State.performCut at h
  split at h
  case h_1 u _ =>
    obtain ⟨v, hv, rfl⟩ := settle_eq_next.mp h
    exact ⟨v, rfl, Host.Outcome.next.inj hv ▸ s.cutOff_lasting c u⟩
  case h_2 =>
    obtain ⟨v, hv, rfl⟩ := settle_eq_next.mp h
    exact ⟨v, rfl, Host.Outcome.next.inj hv ▸ s.resetDrawn_lasting s.draws _ _⟩
  case h_3 => cases h

/-- A sampling point takes nothing of the invariant. -/
theorem Inv.sample (h : Inv s) : Inv s.sample.2 where
  memory := by simpa using h.memory
  queueAhead := by simpa [State.queueBase] using h.queueAhead
  staleInSpace := by simpa using h.staleInSpace
  progressRuns := by simpa using h.progressRuns
  ruleStoresRun := by simpa using h.ruleStoresRun

/-- Settles O4: a step waits, or ends by reading ahead after a state with the rest of the invariant. -/
theorem stepKeepsInvariant : Obligations.StepKeepsInvariant := by
  unfold Obligations.StepKeepsInvariant
  intro s t h
  have hread {v : State} (hv : Carries Lasting Lasting s.sample.2 v) :
      v.readAhead.cfg = s.cfg ∧ (Inv s → Inv v.readAhead) :=
    ⟨by simpa using hv.config, fun hs => (hv.holds hs.sample.lasting).readAhead⟩
  cases hc : s.sample.1.cutBy with
  | none =>
    rw [step_eq_perform hc] at h
    rcases State.perform_work h with rfl | ⟨v, rfl, hv⟩
    · exact ⟨by simp, Inv.sample⟩
    · exact hread hv
  | some c =>
    have h' : (s.sample.2.work s.sample.1).2.performCut (s.sample.2.work s.sample.1).1 c = .next t := by
      rw [← h, step, State.cycle]
      simp only [hc]
    obtain ⟨v, rfl, hv⟩ := State.performCut_work h'
    have hw := (State.work_sound s.sample.1).trans hv
    exact hread ⟨hw.config, fun hs => hw.holds hs.sound⟩

end

end Sys2Proof.Machine
end

section
/-!
PROOFS. The six stores (40_load_store_lea.md R168 to R173) and EMACS (44_multiply_divide_minmax_table.md R400): the bytes
at the effective address, and nothing else in memory.
-/

namespace Sys2Proof.Machine

/-! ## Stores -/

/-- A byte store of a register that forming an address leaves alone. -/
theorem storeRule8_of_exec {make : MemOperand → Instr} {value : State → Byte}
    (hx : ∀ m s, exec (make m) s = .next ((s.advance (make m)).store8 m value))
    (hv : ∀ m s, value ((s.advance (make m)).eaMem m).2 = value s) : StoreRule8 make value := by
  intro m s p
  have heff := (s.advance (make m)).effect_store8 m value
  rw [hv] at heff
  refine ⟨_, hx m s, by simp [State.store8, State.pcNext], (s.effect_advance _ _ _).after rfl heff,
    fun r _ => State.store8_reg .., flagsNZV8_logic _ s.ccr (value s) ?_⟩
  simp [State.store8, hv]

/-- A word store, of a register as forming the address left it (30_encoding.md R130). -/
theorem storeRule16_of_exec {make : MemOperand → Instr} {value : State → Word}
    (hx : ∀ m s, exec (make m) s = .next ((s.advance (make m)).store16 m value)) : StoreRule16 make value := by
  intro m s p
  exact ⟨_, hx m s, by simp [State.store16, State.pcNext],
    (s.effect_advance _ _ _).after rfl ((s.advance (make m)).effect_store16 m value),
    fun r _ => State.store16_reg .., flagsNZV16_logic _ s.ccr (value p.2) rfl⟩

/-- Settles O20: each store by the rule of its size. -/
theorem stores : Obligations.Stores := by
  unfold Obligations.Stores
  exact ⟨storeRule8_of_exec (fun _ _ => rfl) (by simp), storeRule8_of_exec (fun _ _ => rfl) (by simp),
    storeRule16_of_exec fun _ _ => rfl, storeRule16_of_exec fun _ _ => rfl, storeRule16_of_exec fun _ _ => rfl,
    storeRule16_of_exec fun _ _ => rfl⟩

/-! ## EMACS -/

/-- A product of two signed words fits in 32 bits. -/
theorem wordProduct_toInt (a b : Word) : (BitVec.ofInt 32 (a.toInt * b.toInt)).toInt = a.toInt * b.toInt := by
  have hlow := BitVec.le_toInt_mul_toInt (x := a) (y := b)
  have hhigh := BitVec.toInt_mul_toInt_le (x := a) (y := b)
  norm_num at hlow hhigh
  rw [BitVec.toInt_ofInt, Int.bmod_eq_of_le (by omega) (by omega)]

/-- The signed overflow of a 32-bit sum, by the signs of the operands and the result (10_state.md R48). -/
theorem sum32_overflow (x y : BitVec 32) :
    (x.msb == y.msb && (x + y).msb != x.msb) =
      decide (x.toInt + y.toInt < -2147483648 ∨ 2147483647 < x.toInt + y.toInt) := by
  have h := BitVec.saddOverflow_eq x y
  rw [bne, ← h, BitVec.saddOverflow, ← Bool.decide_or, decide_eq_decide]
  omega

/-- The carry out of bit 15 is the majority of the operands' bits and the complement of the result's. -/
theorem sum32_carry15 (x y : BitVec 32) :
    ((x.getLsbD 15 && y.getLsbD 15) || (y.getLsbD 15 && !(x + y).getLsbD 15) ||
        (!(x + y).getLsbD 15 && x.getLsbD 15)) =
      decide (65536 ≤ x.toNat % 65536 + y.toNat % 65536) := by
  have hbit (z : BitVec 32) : z.getLsbD 15 = decide (32768 ≤ z.toNat % 65536) := by
    rw [← BitVec.testBit_toNat, Nat.testBit_eq_decide_div_mod_eq, decide_eq_decide]
    omega
  rw [Bool.eq_iff_iff]
  simp only [hbit, BitVec.toNat_add, Bool.or_eq_true, Bool.and_eq_true, Bool.not_eq_true', decide_eq_true_eq,
    decide_eq_false_iff_not]
  omega

/-- Settles O42. -/
theorem multiplyAccumulate : Obligations.MultiplyAccumulate := by
  unfold Obligations.MultiplyAccumulate
  intro ea s a b hi lo acc p r
  refine ⟨_, rfl, ?pc, ?effect, ?n, ?z, ?v, ?c⟩
  case pc => simp [State.multiplyAccumulate, State.pcNext]
  case effect =>
    have hread : Effect s lo.2 [] [.n, .z, .v, .c] [] :=
      ((((s.effect_advance _ _ _).andThen (State.effect_read16 _ _ _ _)).andThen (State.effect_read16 _ _ _ _)).andThen
        (State.effect_read16 _ _ _ _)).andThen (State.effect_read16 _ _ _ _)
    have hmem : lo.2.mem = s.mem := by simp [lo, hi, b, a]
    have hccr : lo.2.ccr = s.ccr := by simp [lo, hi, b, a]
    have hwrite := (lo.2.effect_write16 ea (r.extractLsb' 16 16) [] [.n, .z, .v, .c]).append (State.wf_write16 · _ _)
      (State.effect_write16 _ (ea + 2) (r.extractLsb' 0 16) [] _)
    refine (hread.after hmem hwrite).andThen (State.effect_setCcr _ _ _ _ fun f hf => ?_)
    cases f <;> simp [hccr] at hf ⊢
  all_goals refine (getFlag_setNZVC ..).trans ?_
  case n => exact BitVec.msb_eq_getLsbD_last r
  case z => exact beq_eq_decide r 0
  case v => exact (sum32_overflow acc (BitVec.ofInt 32 p)).trans (by rw [wordProduct_toInt])
  case c => exact sum32_carry15 acc _

end Sys2Proof.Machine
end

section
/-!
PROOFS. What every addressing form reads and the address it gives (30_encoding.md R113 to R127, 20_memory.md R82).
-/

namespace Sys2Proof.Machine

/-! ## Addresses -/

/-- A direct address lies in page zero (30_encoding.md R114). -/
theorem pageZero (a : Byte) : a.zeroExtend 16 = 0x00#8 ++ a := by
  apply BitVec.eq_of_toNat_eq
  rw [toNat_append_eq_add, BitVec.toNat_setWidth, Nat.mod_eq_of_lt (by have := a.isLt; omega), BitVec.toNat_ofNat,
    Nat.zero_mod, Nat.zero_mul, Nat.zero_add]

/-- The step of an automatic form is 1 to 8 or -8 to -1 (30_encoding.md R122). -/
theorem autoStep_eq (n : BitVec 4) :
    autoStep n = BitVec.ofInt 16 (if n.toNat < 8 then (n.toNat : Int) + 1 else (n.toNat : Int) - 16) := by
  revert n
  decide

@[simp] theorem State.autoBase_setAutoBase (s : State) (r : AutoBase) (v : Word) :
    (s.setAutoBase r v).autoBase r = v := by
  cases r <;> rfl

/-- An automatic form moves its base by the step, and changes nothing else (30_encoding.md R122). -/
theorem State.eaShort_auto (s : State) (r : AutoBase) (n : BitVec 4) :
    ∀ f ∈ [IdxShort.pre r n, IdxShort.post r n],
      (s.eaShort f).2.autoBase r = s.autoBase r + autoStep n ∧ Effect s (s.eaShort f).2 [autoName r] [] [] := by
  simp only [List.mem_cons, List.not_mem_nil, or_false, forall_eq_or_imp, forall_eq]
  exact ⟨⟨State.autoBase_setAutoBase .., State.effect_eaShort s (.pre r n)⟩,
    State.autoBase_setAutoBase .., State.effect_eaShort s (.post r n)⟩

/-! ## Operands -/

/-- A byte operand in memory is the byte at its address, where it can be read back (40_load_store_lea.md R160). -/
theorem State.operand8_mem_plain {s : State} {m : MemOperand} (h : (s.eaMem m).2.plain (s.eaMem m).1 = true) :
    s.operand8 (.mem m) = ((s.eaMem m).2.peek (s.eaMem m).1, (s.eaMem m).2) := State.read8_plain h

/-- A word operand in memory is the big-endian word at its address (20_memory.md R82). -/
theorem State.operand16_mem_plain {s : State} {m : MemOperand} (h : (s.eaMem m).2.plain (s.eaMem m).1 = true)
    (h' : (s.eaMem m).2.plain ((s.eaMem m).1 + 1) = true) :
    s.operand16 (.mem m) = ((s.eaMem m).2.peek16 (s.eaMem m).1, (s.eaMem m).2) := State.read16_plain h h'

/-- Settles O17. -/
theorem operandsAndAddresses : Obligations.OperandsAndAddresses := by
  unfold Obligations.OperandsAndAddresses
  refine ⟨fun _ _ => rfl, fun _ _ => rfl, ?dir8, fun s a => State.operand8_mem_plain (m := .ext a),
    fun s a => State.operand16_mem_plain (m := .ext a), ?dir16, ?idx, fun _ _ => rfl, fun _ _ => rfl, fun _ _ _ => rfl,
    fun _ _ _ => rfl, fun _ _ _ => rfl, ?acc, ?auto, fun _ _ _ => State.read16_plain,
    fun _ _ => State.read16_plain, fun _ _ => rfl⟩
  case dir8 =>
    intro s a h
    rw [← pageZero] at h ⊢
    exact State.operand8_mem_plain (m := .dir a) h
  case dir16 =>
    intro s a h h'
    rw [← pageZero] at h h' ⊢
    exact State.operand16_mem_plain (m := .dir a) h h'
  case idx =>
    intro s f p h
    have hplain {x : Word} (hx : s.plain x = true) : p.2.plain x = true := by
      rwa [State.plain_congr (s.eaFull_cfg f)]
    exact ⟨State.operand8_mem_plain (m := .idx f) (hplain h),
      fun h' => State.operand16_mem_plain (m := .idx f) (hplain h) (hplain h')⟩
  case acc =>
    intro s r
    simp only [State.eaShort, State.accOffset, State.d, BitVec.ofNat_toNat, and_self]
  case auto =>
    rintro s r n step rfl
    rw [← autoStep_eq]
    exact ⟨rfl, rfl, s.eaShort_auto r n⟩

/-! ## The step -/

/-- Settles O11: the work of a running CPU is to fetch and execute, or to go on. -/
theorem stepRunsTheDecodedInstruction : Obligations.StepRunsTheDecodedInstruction := by
  unfold Obligations.StepRunsTheDecodedInstruction
  refine ⟨fun s hrun hp he hc => ?fetch, fun s hrun he hc => ?goOn, fun t => ?settle⟩
  case fetch =>
    have hstep : step s = s.sample.2.fetchWork.2.perform s.sample.2.fetchWork.1 := by
      rw [step_quiet hc he, State.quietWork_fetch (by simpa using hrun) (by simpa using hp)]
    refine ⟨⟨_, _, s.sample.2.fetch_frame⟩, fun i rest hd => ?_, fun e hd => ?_⟩
    · rw [hstep, State.fetchWork_ok hd, State.perform_run]
    · rw [hstep, State.fetchWork_bad hd]
      rfl
  case goOn =>
    have hstep {k : Progress} (hp : s.progress = some k) :
        step s = State.perform { s.sample.2 with progress := none } (.goOn k) := by
      rw [step_quiet hc he, State.quietWork_goOn (by simpa using hrun) (by simpa using hp)]
    exact ⟨hstep, hstep⟩
  case settle =>
    exact ⟨_, _, congrArg Host.Outcome.next t.readAhead_frame, t.readAhead_addresses⟩

end Sys2Proof.Machine
end

section
/-!
SUPPORT. The decoder on the bytes of an instruction, whatever follows them (30_encoding.md R110 to R112, R147, R148).
-/

namespace Sys2Proof

/-- These bytes, whatever follows them, decode to `i`, and they are no more than a fetch brings in (30_encoding.md
R110). -/
structure Reads (bs : List Byte) (i : Instr) : Prop where
  short : bs.length ≤ 6
  decodes : ∀ rest, decode (bs ++ rest) = .ok i rest

/-- The opcode `op`, with its prebyte on page two, is followed by operands in the format `fmt` (30_encoding.md R147,
R148). -/
structure Opens (op : List Byte) (fmt : OpFormat) : Prop where
  short : op.length ≤ 2
  decodes : ∀ bs, decode (op ++ bs) = readOperands fmt bs

theorem Opens.pageOne {op : Byte} {fmt : OpFormat} (h : ∀ bs, decode (op :: bs) = readOperands fmt bs) :
    Opens [op] fmt := ⟨by simp, h⟩

theorem Opens.pageTwo {op : Byte} {fmt : OpFormat} (h : ∀ bs, decode (0x18 :: op :: bs) = readOperands fmt bs) :
    Opens [0x18, op] fmt := ⟨by simp, h⟩

section
variable {op operands : List Byte} {fmt : OpFormat} {i : Instr}

/-- An opcode and operands that its format reads back. -/
theorem Opens.reads (h : Opens op fmt) (hl : (op ++ operands).length ≤ 6)
    (hr : ∀ rest, readOperands fmt (operands ++ rest) = .ok i rest) : Reads (op ++ operands) i :=
  ⟨hl, fun rest => by rw [List.append_assoc, h.decodes, hr]⟩

/-- With at most four bytes of operands the instruction is short enough on both pages. -/
theorem Opens.length_le (h : Opens op fmt) (hl : operands.length ≤ 4) : (op ++ operands).length ≤ 6 := by
  have := h.short
  rw [List.length_append]
  omega

theorem Opens.inh (h : Opens op (.inh i)) : Reads op i := by
  simpa using h.reads (operands := []) (h.length_le (by simp)) fun _ => rfl

theorem Opens.byte {f : Byte → Instr} (h : Opens op (.byte f)) (v : Byte) : Reads (op ++ [v]) (f v) :=
  h.reads (h.length_le (by simp)) fun _ => rfl

theorem Opens.word {f : Word → Instr} (h : Opens op (.word f)) (w : Word) : Reads (op ++ wordBytes w) (f w) :=
  h.reads (h.length_le (by simp [wordBytes])) fun rest => by simp [readOperands]

theorem Opens.idx {f : IdxFull → Instr} (h : Opens op (.idx f)) (x : IdxFull) : Reads (op ++ idxFullBytes x) (f x) :=
  h.reads (h.length_le (by have := Laws.EncodeLength.full x; omega)) fun rest => by simp [readOperands]

theorem Opens.idxDirect {f : IdxDirect → Instr} (h : Opens op (.idxDirect f)) (x : IdxDirect) :
    Reads (op ++ idxDirectBytes x) (f x) :=
  h.reads (h.length_le (by have := Laws.EncodeLength.direct x; omega)) fun rest => takeIdxDirect_bytes x rest _

theorem Opens.idxShort {f : IdxShort → Instr} (h : Opens op (.idxShort f)) (x : IdxShort) :
    Reads (op ++ [idxShortByte x]) (f x) :=
  h.reads (h.length_le (by simp)) fun rest => takeIdxShort_bytes x rest _

end

section
variable {i d x e : Byte}

theorem reads_operand8 {make : Operand8 → Instr} (hi : Opens [i] (.i8 make)) (hd : Opens [d] (.d8 make))
    (hx : Opens [x] (.x8 make)) (he : Opens [e] (.e8 make)) (o : Operand8) :
    Reads (operand8Bytes i d x e o) (make o) := by
  rcases o with v | a | a | f
  · exact hi.byte v
  · exact hd.byte a
  · exact he.word a
  · exact hx.idx f

theorem reads_operand16 {make : Operand16 → Instr} (hi : Opens [i] (.i16 make)) (hd : Opens [d] (.d16 make))
    (hx : Opens [x] (.x16 make)) (he : Opens [e] (.e16 make)) (o : Operand16) :
    Reads (operand16Bytes i d x e o) (make o) := by
  rcases o with v | a | a | f
  · exact hi.word v
  · exact hd.byte a
  · exact he.word a
  · exact hx.idx f

theorem reads_memOperand {make : MemOperand → Instr} (hd : Opens [d] (.dm make)) (hx : Opens [x] (.xm make))
    (he : Opens [e] (.em make)) (m : MemOperand) : Reads (memOperandBytes d x e m) (make m) := by
  cases m with
  | dir a => exact hd.byte a
  | ext a => exact he.word a
  | idx f => exact hx.idx f

theorem reads_rmwOperand {make : RmwOperand → Instr} (hx : Opens [x] (.xr make)) (he : Opens [e] (.er make))
    (m : RmwOperand) : Reads (rmwOperandBytes x e m) (make m) := by
  cases m with
  | ext a => exact he.word a
  | idx f => exact hx.idx f

theorem reads_mask {make : BitOperand → Byte → Instr} (hd : Opens [d] (.dirMsk make))
    (hx : Opens [x] (.idxMsk make)) (he : Opens [e] (.extMsk make)) (m : BitOperand) (mask : Byte) :
    Reads (bitOperandBytes d x e m ++ [mask]) (make m mask) := by
  cases m with
  | dir a => exact hd.reads (operands := [a, mask]) (by simp) fun _ => rfl
  | ext a =>
    exact he.reads (operands := wordBytes a ++ [mask]) (by simp [wordBytes]) fun _ => by simp [readOperands]
  | idx f =>
    have := Laws.EncodeLength.direct f
    exact hx.reads (operands := idxDirectBytes f ++ [mask]) (by simp; omega) fun _ => by simp [readOperands]

theorem reads_maskRel {make : BitOperand → Byte → Byte → Instr} (hd : Opens [d] (.dirMskRel make))
    (hx : Opens [x] (.idxMskRel make)) (he : Opens [e] (.extMskRel make)) (m : BitOperand) (mask rel : Byte) :
    Reads (bitOperandBytes d x e m ++ [mask, rel]) (make m mask rel) := by
  cases m with
  | dir a => exact hd.reads (operands := [a, mask, rel]) (by simp) fun _ => rfl
  | ext a =>
    exact he.reads (operands := wordBytes a ++ [mask, rel]) (by simp [wordBytes]) fun _ => by simp [readOperands]
  | idx f =>
    have := Laws.EncodeLength.direct f
    exact hx.reads (operands := idxDirectBytes f ++ [mask, rel]) (by simp; omega) fun _ => by simp [readOperands]

end

theorem reads_call (t : CallTarget) : Reads (callBytes t) (.call t) := by
  have hext : Opens [0x4A] .callExt := .pageOne fun _ => rfl
  have hidx : Opens [0x4B] .callIdx := .pageOne fun _ => rfl
  cases t with
  | ext a page =>
    exact hext.reads (operands := wordBytes a ++ [page]) (by simp [wordBytes]) fun _ => by simp [readOperands]
  | idx f page =>
    have := Laws.EncodeLength.direct f
    exact hidx.reads (operands := idxDirectBytes f ++ [page]) (by simp; omega) fun rest => by
      have e := takeIdx_bytes (.direct f) (page :: rest)
      simp only [idxFullBytes] at e
      simp [readOperands, e]
  | indD r =>
    exact hidx.reads (operands := idxFullBytes (.indD r)) (by simp [idxFullBytes]) fun _ => by simp [readOperands]
  | ind16 r n =>
    exact hidx.reads (operands := idxFullBytes (.ind16 r n)) (by simp [idxFullBytes, wordBytes]) fun _ => by
      simp [readOperands]

theorem reads_transfer (r1 r2 : Reg) :
    Reads (transferBytes 0 r1 r2) (.tfr r1 r2) ∧ Reads (transferBytes 1 r1 r2) (.exg r1 r2) := by
  have h : Opens [0xB7] .transfer := .pageOne fun _ => rfl
  exact ⟨h.reads (operands := [_]) (by simp) fun _ => by simp [readOperands, transferOf_byte],
    h.reads (operands := [_]) (by simp) fun _ => by simp [readOperands, transferOf_byte]⟩

theorem reads_loop {op : BitVec 3} {make : LoopReg → BitVec 9 → Instr} (h : loopOpOf op = some make) (r : LoopReg)
    (off : BitVec 9) : Reads (loopBytes op r off) (make r off) := by
  have hloop : Opens [0x04] .loop := .pageOne fun _ => rfl
  exact hloop.reads (operands := [_, _]) (by simp) fun _ => by simp [readOperands, loopOf_bytes op make h]

section
variable {op : List Byte}

theorem Opens.movExtIdx {f : Word → IdxShort → Instr} (h : Opens op (.movExtIdx f)) (a : Word) (d : IdxShort) :
    Reads (op ++ idxShortByte d :: wordBytes a) (f a d) :=
  h.reads (h.length_le (by simp [wordBytes])) fun _ => by simp [readOperands]

theorem Opens.movIdxIdx {f : IdxShort → IdxShort → Instr} (h : Opens op (.movIdxIdx f)) (x d : IdxShort) :
    Reads (op ++ [idxShortByte x, idxShortByte d]) (f x d) :=
  h.reads (h.length_le (by simp)) fun _ => by simp [readOperands]

theorem Opens.movExtExt {f : Word → Word → Instr} (h : Opens op (.movExtExt f)) (a d : Word) :
    Reads (op ++ (wordBytes a ++ wordBytes d)) (f a d) :=
  h.reads (h.length_le (by simp [wordBytes])) fun _ => by simp [readOperands]

theorem Opens.movIdxExt {f : IdxShort → Word → Instr} (h : Opens op (.movIdxExt f)) (x : IdxShort) (d : Word) :
    Reads (op ++ idxShortByte x :: wordBytes d) (f x d) :=
  h.reads (h.length_le (by simp [wordBytes])) fun _ => by simp [readOperands]

end

theorem reads_movb (src : MoveSource8) (dst : MoveDest) : Reads (movbBytes src dst) (.movb src dst) := by
  cases dst with
  | idx d =>
    cases src with
    | imm v =>
      have h : Opens [0x18, 0x08] .movImm8Idx := .pageTwo fun _ => rfl
      exact h.reads (operands := [idxShortByte d, v]) (by simp) fun _ => by simp [readOperands]
    | ext a => exact Opens.movExtIdx (op := [0x18, 0x09]) (.pageTwo fun _ => rfl) a d
    | idx x => exact Opens.movIdxIdx (op := [0x18, 0x0A]) (.pageTwo fun _ => rfl) x d
  | ext d =>
    cases src with
    | imm v =>
      have h : Opens [0x18, 0x0B] .movImm8Ext := .pageTwo fun _ => rfl
      exact h.reads (operands := v :: wordBytes d) (by simp [wordBytes]) fun _ => by simp [readOperands]
    | ext a =>
      have h : Opens [0x18, 0x0C] (.movExtExt fun a d => .movb (.ext a) (.ext d)) := .pageTwo fun _ => rfl
      exact h.movExtExt a d
    | idx x => exact Opens.movIdxExt (op := [0x18, 0x0D]) (.pageTwo fun _ => rfl) x d

theorem reads_movw (src : MoveSource16) (dst : MoveDest) : Reads (movwBytes src dst) (.movw src dst) := by
  cases dst with
  | idx d =>
    cases src with
    | imm v =>
      have h : Opens [0x18, 0x00] .movImm16Idx := .pageTwo fun _ => rfl
      exact h.reads (operands := idxShortByte d :: wordBytes v) (by simp [wordBytes]) fun _ => by simp [readOperands]
    | ext a => exact Opens.movExtIdx (op := [0x18, 0x01]) (.pageTwo fun _ => rfl) a d
    | idx x => exact Opens.movIdxIdx (op := [0x18, 0x02]) (.pageTwo fun _ => rfl) x d
  | ext d =>
    cases src with
    | imm v =>
      have h : Opens [0x18, 0x03] .movImm16Ext := .pageTwo fun _ => rfl
      exact h.reads (operands := wordBytes v ++ wordBytes d) (by simp [wordBytes]) fun _ => by simp [readOperands]
    | ext a =>
      have h : Opens [0x18, 0x04] (.movExtExt fun a d => .movw (.ext a) (.ext d)) := .pageTwo fun _ => rfl
      exact h.movExtExt a d
    | idx x => exact Opens.movIdxExt (op := [0x18, 0x05]) (.pageTwo fun _ => rfl) x d

/-- A well-formed TRAP has a number that page two knows (30_encoding.md R148). -/
theorem reads_trap {tn : Byte} (h : trapNumberOk tn = true) : Reads [0x18, tn] (.trap tn) := by
  have hpage : pageTwo tn = .inh (.trap tn) := by
    by_cases h40 : 0x40 ≤ tn
    · simp only [pageTwo, if_pos h40]
    · have hrow : tn ∈ [0x30, 0x31, 0x32, 0x33, 0x34, 0x35, 0x36, 0x37, 0x38, 0x39] := by
        revert tn
        decide
      fin_cases hrow <;> rfl
  exact Opens.inh (.pageTwo fun bs => by rw [← hpage]; rfl)

/-- Every well-formed instruction is read back from its bytes, whatever follows them, a second name (R152) as the
instruction whose bytes it shares. -/
theorem reads_encode (i : Instr) (h : i.wf = true) : Reads (encode i) i.canonical := by
  cases i
  case bgnd | mem | iny | dey | inx | dex | rtc | rti | ediv | mul | emul | pulx | puly | pula | pulb | pshx | pshy |
      psha | pshb | pulc | pshc | puld | pshd | wavr | rts | wai | swi | nega | coma | inca | deca | lsra | rola |
      rora | asra | lsla | asla | lsrd | negb | comb | incb | decb | lsrb | rolb | rorb | asrb | lslb | aslb | lsld |
      asld | clra | tsta | nop | clrb | tstb => exact Opens.inh (.pageOne fun _ => rfl)
  case aba | daa | tab | tba | idiv | fdiv | emuls | edivs | idivs | sba | cba | rev | revw | wav | stop =>
    exact Opens.inh (.pageTwo fun _ => rfl)
  case bsr v | andcc v | orcc v | bra v | brn v | bhi v | bls v | bcc v | bhs v | bcs v | blo v | bne v | beq v |
      bvc v | bvs v | bpl v | bmi v | bge v | blt v | bgt v | ble v => exact Opens.byte (.pageOne fun _ => rfl) v
  case emacs w | lbra w | lbrn w | lbhi w | lbls w | lbcc w | lbhs w | lbcs w | lblo w | lbne w | lbeq w | lbvc w |
      lbvs w | lbpl w | lbmi w | lbge w | lblt w | lbgt w | lble w => exact Opens.word (.pageTwo fun _ => rfl) w
  case suba o | cmpa o | sbca o | anda o | bita o | ldaa o | eora o | adca o | oraa o | adda o | subb o | cmpb o |
      sbcb o | andb o | bitb o | ldab o | eorb o | adcb o | orab o | addb o =>
    exact reads_operand8 (.pageOne fun _ => rfl) (.pageOne fun _ => rfl) (.pageOne fun _ => rfl)
      (.pageOne fun _ => rfl) o
  case subd o | cpd o | cpy o | cpx o | cps o | addd o | ldd o | ldy o | ldx o | lds o =>
    exact reads_operand16 (.pageOne fun _ => rfl) (.pageOne fun _ => rfl) (.pageOne fun _ => rfl)
      (.pageOne fun _ => rfl) o
  case jsr m | staa m | stab m | std m | sty m | stx m | sts m =>
    exact reads_memOperand (.pageOne fun _ => rfl) (.pageOne fun _ => rfl) (.pageOne fun _ => rfl) m
  case jmp m | neg m | com m | inc m | dec m | lsr m | rol m | ror m | asr m | lsl m | asl m | clr m | tst m =>
    exact reads_rmwOperand (.pageOne fun _ => rfl) (.pageOne fun _ => rfl) m
  case maxa f | mina f | emaxd f | emind f | maxm f | minm f | emaxm f | eminm f =>
    exact Opens.idx (.pageTwo fun _ => rfl) f
  case leay f | leax f | leas f => exact Opens.idxDirect (.pageOne fun _ => rfl) f
  case tbl f | etbl f => exact Opens.idxShort (.pageTwo fun _ => rfl) f
  case bset m mask | bclr m mask =>
    exact reads_mask (.pageOne fun _ => rfl) (.pageOne fun _ => rfl) (.pageOne fun _ => rfl) m mask
  case brset m mask rel | brclr m mask rel =>
    exact reads_maskRel (.pageOne fun _ => rfl) (.pageOne fun _ => rfl) (.pageOne fun _ => rfl) m mask rel
  case call t => exact reads_call t
  case dbeq r off | dbne r off | tbeq r off | tbne r off | ibeq r off | ibne r off => exact reads_loop rfl r off
  case tfr r1 r2 => exact (reads_transfer r1 r2).1
  case exg r1 r2 => exact (reads_transfer r1 r2).2
  case sex r1 r2 => exact (reads_transfer (.r8 r1) (.r16 r2)).1
  case movb src dst => exact reads_movb src dst
  case movw src dst => exact reads_movw src dst
  case trap tn => exact reads_trap h
  case tap | tpa | tsx | tsy | txs | tys | xgdx | xgdy | abx | aby | des | ins | clc | cli | clv | sec | sei | sev =>
    exact ⟨by decide, fun _ => rfl⟩

end Sys2Proof
end

section
/-!
SUPPORT. The decoder and bytes that come later: what it answers on the bytes at hand it answers with more bytes after them
too, unless it runs out of bytes (30_encoding.md R111).
-/

namespace Sys2Proof

/-- The same answer with more bytes left over. -/
def Decoded.followedBy (more : List Byte) : Decoded → Decoded
  | .ok i rest => .ok i (rest ++ more)
  | .bad e => .bad e

/-- A reader whose answer holds with more bytes at the end, unless the bytes run out. -/
def Prompt (f : List Byte → Decoded) : Prop :=
  ∀ bs more, f bs ≠ .bad .truncated → f (bs ++ more) = (f bs).followedBy more

theorem Prompt.ok (i : Instr) : Prompt (.ok i) := fun _ _ _ => rfl

theorem Prompt.bad (e : DecodeError) : Prompt fun _ => .bad e := fun _ _ _ => rfl

theorem Prompt.takeByte {k : Byte → List Byte → Decoded} (hk : ∀ b, Prompt (k b)) : Prompt (takeByte · k) := by
  intro bs more h
  cases bs with
  | nil => exact absurd rfl h
  | cons b rest => exact hk b rest more h

theorem Prompt.takeWord {k : Word → List Byte → Decoded} (hk : ∀ w, Prompt (k w)) : Prompt (takeWord · k) :=
  .takeByte fun _ => .takeByte fun _ => hk _

theorem Prompt.takeIdx {k : IdxFull → List Byte → Decoded} (hk : ∀ f, Prompt (k f)) : Prompt (takeIdx · k) := by
  refine .takeByte fun xb => ?_
  cases xbForm xb with
  | short f => exact hk _
  | nine r s => exact .takeByte fun _ => hk _
  | sixteen r => exact .takeWord fun _ => hk _
  | ind16 r => exact .takeWord fun _ => hk _
  | indD r => exact hk _

theorem Prompt.takeIdxDirect {k : IdxDirect → List Byte → Decoded} (hk : ∀ f, Prompt (k f)) :
    Prompt (takeIdxDirect · k) := by
  refine .takeIdx fun f => ?_
  cases f with
  | direct f => exact hk f
  | indD r => exact .bad _
  | ind16 r n => exact .bad _

theorem Prompt.takeIdxShort {k : IdxShort → List Byte → Decoded} (hk : ∀ f, Prompt (k f)) :
    Prompt (takeIdxShort · k) := by
  refine .takeByte fun xb => ?_
  cases xbForm xb with
  | short f => exact hk f
  | nine r s => exact .bad _
  | sixteen r => exact .bad _
  | ind16 r => exact .bad _
  | indD r => exact .bad _

theorem prompt_readOperands (fmt : OpFormat) : Prompt (readOperands fmt) := by
  unfold readOperands
  cases fmt with
  | inh i => exact .ok i
  | byte f => exact .takeByte fun _ => .ok _
  | word f => exact .takeWord fun _ => .ok _
  | idx f => exact .takeIdx fun _ => .ok _
  | idxDirect f => exact .takeIdxDirect fun _ => .ok _
  | idxShort f => exact .takeIdxShort fun _ => .ok _
  | dirMsk f => exact .takeByte fun _ => .takeByte fun _ => .ok _
  | extMsk f => exact .takeWord fun _ => .takeByte fun _ => .ok _
  | idxMsk f => exact .takeIdxDirect fun _ => .takeByte fun _ => .ok _
  | dirMskRel f => exact .takeByte fun _ => .takeByte fun _ => .takeByte fun _ => .ok _
  | extMskRel f => exact .takeWord fun _ => .takeByte fun _ => .takeByte fun _ => .ok _
  | idxMskRel f => exact .takeIdxDirect fun _ => .takeByte fun _ => .takeByte fun _ => .ok _
  | callExt => exact .takeWord fun _ => .takeByte fun _ => .ok _
  | callIdx =>
    refine .takeIdx fun x => ?_
    cases x with
    | direct f => exact .takeByte fun _ => .ok _
    | indD r => exact .ok _
    | ind16 r n => exact .ok _
  | transfer =>
    refine .takeByte fun eb => ?_
    cases transferOf eb with
    | some i => exact .ok i
    | none => exact .bad _
  | loop =>
    refine .takeByte fun lb => .takeByte fun rr => ?_
    cases loopOf lb rr with
    | some i => exact .ok i
    | none => exact .bad _
  | movImm8Ext => exact .takeByte fun _ => .takeWord fun _ => .ok _
  | movImm8Idx => exact .takeIdxShort fun _ => .takeByte fun _ => .ok _
  | movImm16Ext => exact .takeWord fun _ => .takeWord fun _ => .ok _
  | movImm16Idx => exact .takeIdxShort fun _ => .takeWord fun _ => .ok _
  | movExtExt f => exact .takeWord fun _ => .takeWord fun _ => .ok _
  | movExtIdx f => exact .takeIdxShort fun _ => .takeWord fun _ => .ok _
  | movIdxExt f => exact .takeIdxShort fun _ => .takeWord fun _ => .ok _
  | movIdxIdx f => exact .takeIdxShort fun _ => .takeIdxShort fun _ => .ok _

theorem prompt_decode : Prompt decode := by
  refine .takeByte fun b0 => ?_
  by_cases h : b0 = 0x18
  · simp only [h, ↓reduceIte]
    exact .takeByte fun op => prompt_readOperands _
  · simp only [h, ↓reduceIte]
    exact prompt_readOperands _

/-- The first bytes of an instruction say that instruction, or there are not enough of them. -/
theorem decode_of_append {bs more rest : List Byte} {i : Instr} (h : decode (bs ++ more) = .ok i rest)
    (ht : decode bs ≠ .bad .truncated) : ∃ rest', decode bs = .ok i rest' := by
  have e := (prompt_decode bs more ht).symm.trans h
  cases hd : decode bs with
  | ok j rest' =>
    rw [hd] at e
    exact ⟨rest', congrArg (Decoded.ok · rest') (Decoded.ok.inj e).1⟩
  | bad e' => simp [hd, Decoded.followedBy] at e

end Sys2Proof
end

section
/-!
SUPPORT. An instruction by its second name (30_encoding.md R152).
-/

namespace Sys2Proof.Machine

/-- Clearing a flag is ANDing CCR with the mask of the others. -/
theorem clearFlag_eq_mask (ccr : Byte) :
    setFlag ccr .c false = writeCcr ccr (ccr &&& 0xFE) ∧ setFlag ccr .i false = writeCcr ccr (ccr &&& 0xEF) ∧
      setFlag ccr .v false = writeCcr ccr (ccr &&& 0xFD) := by
  revert ccr
  decide

/-- Setting a flag is ORing CCR with its mask. -/
theorem setFlag_eq_mask (ccr : Byte) :
    setFlag ccr .c true = writeCcr ccr (ccr ||| 0x01) ∧ setFlag ccr .i true = writeCcr ccr (ccr ||| 0x10) ∧
      setFlag ccr .v true = writeCcr ccr (ccr ||| 0x02) := by
  revert ccr
  decide

theorem next_setCcr_congr (s : State) {p q : Byte} (h : p = q) :
    (.next (s.setCcr p) : Result) = .next (s.setCcr q) := by
  rw [h]

/-- A second name means what the instruction whose bytes it shares means. -/
theorem exec_canonical (i : Instr) (s : State) : exec i s = exec i.canonical s := by
  cases i
  case clc => exact next_setCcr_congr (s.advance .clc) (clearFlag_eq_mask s.ccr).1
  case cli => exact next_setCcr_congr (s.advance .cli) (clearFlag_eq_mask s.ccr).2.1
  case clv => exact next_setCcr_congr (s.advance .clv) (clearFlag_eq_mask s.ccr).2.2
  case sec => exact next_setCcr_congr (s.advance .sec) (setFlag_eq_mask s.ccr).1
  case sei => exact next_setCcr_congr (s.advance .sei) (setFlag_eq_mask s.ccr).2.1
  case sev => exact next_setCcr_congr (s.advance .sev) (setFlag_eq_mask s.ccr).2.2
  case des =>
    have hsp : s.sp - 1 = s.sp + (-1 : BitVec 5).signExtend 16 := BitVec.sub_eq_add_neg ..
    exact congrArg (fun v => (.next { s.advance .des with sp := v } : Result)) hsp
  all_goals rfl

end Sys2Proof.Machine
end

section
/-!
PROOFS. The instruction whose bytes stand at PC is fetched and executed (20_memory.md R100, 30_encoding.md R110, R111).
-/

namespace Sys2Proof.Machine

/-! ## The bytes from an address on -/

/-- What `n` addresses from `a` on hold. -/
def State.bytes (s : State) : Word → Nat → List Byte
  | _, 0 => []
  | a, n + 1 => s.peek a :: s.bytes (a + 1) n

theorem State.bytes_add (s : State) (a : Word) (m n : Nat) :
    s.bytes a (m + n) = s.bytes a m ++ s.bytes (a + BitVec.ofNat 16 m) n := by
  induction m generalizing a with
  | zero => simp [State.bytes]
  | succ m ih =>
    have e : a + BitVec.ofNat 16 (m + 1) = a + 1 + BitVec.ofNat 16 m := by
      rw [Nat.add_comm m 1, BitVec.ofNat_add, ← BitVec.add_assoc]
      rfl
    rw [Nat.succ_add, State.bytes, ih, State.bytes, e, List.cons_append]

/-- Bytes held at `a` are what the addresses from `a` on hold. -/
theorem State.bytes_of_holds {s : State} {l : List Byte} {a : Word} (h : s.holds a l) : s.bytes a l.length = l := by
  induction l generalizing a with
  | nil => rfl
  | cons v rest ih =>
    obtain ⟨hv, -, hrest⟩ := h
    rw [List.length_cons, State.bytes, hv, ih hrest]

/-! ## A queue that holds what memory holds -/

/-- Every byte of the queue is the one that memory holds at its address. -/
def State.QueueAgrees (s : State) : Prop := ∀ c ∈ s.queue, c.2 = s.peek (BitVec.ofNat 16 c.1)

theorem State.QueueAgrees.queued {s : State} (hq : s.QueueAgrees) {a : Word} {v : Byte} (h : s.queued a = some v) :
    v = s.peek a := by
  obtain ⟨c, hc, rfl⟩ := Option.map_eq_some_iff.mp h
  have haddr : c.1 = a.toNat := by simpa using List.find?_some hc
  rw [hq c (List.mem_of_find?_eq_some hc), haddr, BitVec.ofNat_toNat, BitVec.setWidth_eq]

/-- A program word is then what memory holds, whether the queue holds it or it is read. -/
theorem State.QueueAgrees.programWord {s : State} (hq : s.QueueAgrees) {a : Word} (h : s.plain a = true)
    (h' : s.plain (a + 1) = true) :
    s.programWord a = ([(a.toNat, s.peek a), ((a + 1).toNat, s.peek (a + 1))], s) := by
  cases hhi : s.queued a with
  | none => exact State.programWord_plain (.inl hhi) h h'
  | some hi =>
    cases hlo : s.queued (a + 1) with
    | none => exact State.programWord_plain (.inr hlo) h h'
    | some lo => simp only [State.programWord, hhi, hlo, hq.queued hhi, hq.queued hlo]

/-- The queue that holds what memory holds from PC's word on. -/
def State.memoryQueue (s : State) : List Host.Cell :=
  queueCells s.queueBase fun k => s.peek (s.queueBase + BitVec.ofNat 16 k)

theorem State.QueueAgrees.readAhead {s : State} (hq : s.QueueAgrees)
    (h : ∀ k < 6, s.plain (s.queueBase + BitVec.ofNat 16 k) = true) :
    s.readAhead = { s with queue := s.memoryQueue } := by
  have e0 := hq.programWord (a := s.queueBase) (by simpa using h 0 (by decide)) (h 1 (by decide))
  have e1 := hq.programWord (a := s.queueBase + 2) (h 2 (by decide))
    (by simpa [BitVec.add_assoc] using h 3 (by decide))
  have e2 := hq.programWord (a := s.queueBase + 2 + 2) (by simpa [BitVec.add_assoc] using h 4 (by decide))
    (by simpa [BitVec.add_assoc] using h 5 (by decide))
  simp only [State.readAhead, State.programWords, e0, e1, e2, List.cons_append, List.nil_append]
  simp [State.memoryQueue, queueCells, List.range_succ, BitVec.add_assoc, Nat.mod_eq_of_lt s.queueBase.isLt]

theorem State.queueAgrees_memoryQueue (s : State) : ({ s with queue := s.memoryQueue } : State).QueueAgrees := by
  intro c hc
  obtain ⟨k, -, rfl⟩ := List.mem_map.mp hc
  simp only [BitVec.ofNat_toNat, BitVec.setWidth_eq]
  rfl

/-! ## Fetching -/

/-- With nothing stale a fetch answers the queue's bytes. -/
theorem State.fetchCells_fresh {s : State} (hs : s.stale = []) (l : List Host.Cell) :
    s.fetchCells l = (l.map Prod.snd, s) := by
  have hbyte (c : Host.Cell) : s.fetch8 c = (c.2, s) := by simp [State.fetch8, State.staleValues, hs]
  induction l with
  | nil => rfl
  | cons c rest ih => simp only [State.fetchCells, hbyte, ih, List.map_cons]

/-- PC is the first or the second address of the queue. -/
theorem State.queueBase_add_parity (s : State) : s.queueBase + BitVec.ofNat 16 (s.pc.toNat % 2) = s.pc := by
  have hparity : BitVec.ofNat 16 (s.pc.toNat % 2) = s.pc &&& 1 := by
    apply BitVec.eq_of_toNat_eq
    rw [BitVec.toNat_ofNat, BitVec.toNat_and, Nat.mod_eq_of_lt (by omega)]
    exact (Nat.and_one_is_mod _).symm
  have hdisjoint : s.queueBase &&& (s.pc &&& 1) = 0 := by
    rw [State.queueBase, BitVec.and_comm s.pc 1, BitVec.and_assoc, ← BitVec.and_assoc 0xFFFE]
    simp
  rw [hparity, BitVec.add_eq_or_of_and_eq_zero _ _ hdisjoint, State.queueBase, ← BitVec.and_or_distrib_left]
  exact BitVec.and_allOnes

/-- The queue's bytes from PC on. -/
theorem State.memoryQueue_drop (s : State) :
    (s.memoryQueue.drop (s.pc.toNat % 2)).map Prod.snd = s.bytes s.pc (6 - s.pc.toNat % 2) := by
  have hpc := s.queueBase_add_parity
  rcases Nat.mod_two_eq_zero_or_one s.pc.toNat with h | h
  all_goals
    rw [h] at hpc ⊢
    rw [← hpc]
    simp [State.memoryQueue, queueCells, List.range_succ, State.bytes, BitVec.add_assoc]

/-- With nothing stale, plain memory and a queue that agrees with it, a fetch answers the bytes from PC on: those in the
three words of the queue, and two more where these end within an instruction. -/
theorem State.QueueAgrees.fetch {s : State} (hq : s.QueueAgrees) (hs : s.stale = [])
    (h : ∀ k < 8, s.plain (s.queueBase + BitVec.ofNat 16 k) = true) :
    let n := 6 - s.pc.toNat % 2
    ∃ q, s.fetch = (s.bytes s.pc (if decode (s.bytes s.pc n) = .bad .truncated then n + 2 else n),
      { s with queue := q }) := by
  intro n
  have hqueue : s.readAhead.fetchQueue = (s.bytes s.pc n, { s with queue := s.memoryQueue }) := by
    rw [State.fetchQueue, hq.readAhead fun k hk => h k (by omega), State.fetchCells_fresh (by exact hs)]
    exact congrArg (·, _) s.memoryQueue_drop
  have h7 : s.plain (s.queueBase + 6 + 1) = true := by simpa [BitVec.add_assoc] using h 7 (by decide)
  have hword := s.queueAgrees_memoryQueue.programWord (a := s.queueBase + 6) (h 6 (by decide)) h7
  have hnext : s.pc + BitVec.ofNat 16 n = s.queueBase + 6 := by
    rw [← s.queueBase_add_parity, BitVec.add_assoc, ← BitVec.ofNat_add, show s.pc.toNat % 2 + n = 6 by omega]
    rfl
  unfold State.fetch
  rw [hqueue]
  dsimp only
  split
  case h_1 ht =>
    rw [if_pos ht, s.bytes_add, hnext, hword, State.fetchCells_fresh (by exact hs)]
    exact ⟨_, rfl⟩
  case h_2 ht =>
    rw [if_neg ht]
    exact ⟨_, rfl⟩

/-- The instruction whose bytes stand at PC is the one decoded. -/
theorem State.QueueAgrees.decode_fetch {s : State} {bs : List Byte} {i : Instr} (hq : s.QueueAgrees)
    (hs : s.stale = []) (h : ∀ k < 8, s.plain (s.queueBase + BitVec.ofNat 16 k) = true) (hi : Reads bs i)
    (hb : s.holds s.pc bs) : (∃ rest, decode s.fetch.1 = .ok i rest) ∧ ∃ q, s.fetch.2 = { s with queue := q } := by
  obtain ⟨q, hf⟩ := hq.fetch hs h
  obtain ⟨hshort, hdecodes⟩ := hi
  have hall : ∃ rest, decode (s.bytes s.pc (6 - s.pc.toNat % 2 + 2)) = .ok i rest := by
    obtain ⟨m, hm⟩ := Nat.exists_eq_add_of_le (show bs.length ≤ 6 - s.pc.toNat % 2 + 2 by omega)
    rw [hm, s.bytes_add, State.bytes_of_holds hb]
    exact ⟨_, hdecodes _⟩
  refine ⟨?_, q, congrArg Prod.snd hf⟩
  rw [hf]
  dsimp only
  split
  case isTrue => exact hall
  case isFalse ht =>
    obtain ⟨rest, hrest⟩ := hall
    rw [s.bytes_add] at hrest
    exact decode_of_append hrest ht

/-- Settles O12: a second name (R152) is decoded as its instruction, which means the same. -/
theorem stepRunsTheBytesAtPc : Obligations.StepRunsTheBytesAtPc := by
  unfold Obligations.StepRunsTheBytesAtPc
  intro i s hwf hrun hprogress hreq hstale hqueue hplain hbytes
  have hq : s.QueueAgrees := fun c hc => (hqueue c hc).2
  obtain ⟨⟨rest, hdecode⟩, q, hfetch⟩ := hq.decode_fetch hstale hplain (reads_encode i hwf) hbytes
  have hsample := State.sample_nil hreq
  obtain ⟨-, hruns, -⟩ := stepRunsTheDecodedInstruction.1 s hrun hprogress (by simp [hsample]) (by rw [hsample]; rfl)
  rw [hsample] at hruns
  exact ⟨q, by rw [hruns i.canonical rest hdecode, hfetch, ← exec_canonical]⟩

end Sys2Proof.Machine
end

section
/-!
SUPPORT. The decoder read backwards: the bytes it has taken when it answers an instruction are the encoding of that
instruction, and six bytes are enough for it (30_encoding.md R110 to R112, R120, R140, R145, R147, R148).
-/

namespace Sys2Proof

/-! ## Postbytes -/

/-- The postbyte that says the form (30_encoding.md R120). -/
def xbByte : XbForm → Byte
  | .short f => idxShortByte f
  | .nine r s => 7#3 ++ idxBaseCode r ++ 0#2 ++ s
  | .sixteen r => 7#3 ++ idxBaseCode r ++ 2#3
  | .ind16 r => 7#3 ++ idxBaseCode r ++ 3#3
  | .indD r => 7#3 ++ idxBaseCode r ++ 7#3

/-- Every postbyte is the one of the form it says: the map of R120 says no form twice. -/
theorem xbByte_xbForm (xb : Byte) : xbByte (xbForm xb) = xb := by
  revert xb
  decide

/-! ## Readers of operands -/

/-- A reader for which `n` bytes are enough, and which has taken bytes that `P` allows for the instruction it
answers. -/
structure Takes (n : Nat) (P : List Byte → Instr → Prop) (f : List Byte → Decoded) : Prop where
  taken : ∀ {bs rest i}, f bs = .ok i rest → ∃ bytes, bs = bytes ++ rest ∧ P bytes i
  enough : ∀ {bs}, n ≤ bs.length → f bs ≠ .bad .truncated

theorem wordBytes_append (hi lo : Byte) : wordBytes (hi ++ lo) = [hi, lo] := by
  simp only [wordBytes, BitVec.extractLsb'_append_eq_left, BitVec.extractLsb'_append_eq_right]

/-- The bytes of the 9-bit form (30_encoding.md R124). -/
theorem idxDirectBytes_const9 (r : IdxBase) (s : BitVec 1) (ff : Byte) :
    idxDirectBytes (.const9 r (s ++ ff)) = [xbByte (.nine r s), ff] := by
  simp only [idxDirectBytes, xbByte, BitVec.extractLsb'_append_eq_left, BitVec.extractLsb'_append_eq_right]

section
variable {n : Nat} {P : List Byte → Instr → Prop}

theorem Takes.ok {i : Instr} (h : P [] i) : Takes n P (.ok i) where
  taken e := by
    cases e
    exact ⟨[], rfl, h⟩
  enough _ := nofun

theorem Takes.bad {e : DecodeError} (h : e ≠ .truncated := by decide) : Takes n P fun _ => .bad e where
  taken := nofun
  enough _ := fun e' => h (Decoded.bad.inj e')

theorem Takes.mono {m : Nat} {f : List Byte → Decoded} (h : Takes n P f) (hm : n ≤ m) : Takes m P f :=
  ⟨h.taken, fun hl => h.enough (hm.trans hl)⟩

theorem Takes.imp {Q : List Byte → Instr → Prop} {f : List Byte → Decoded} (h : Takes n P f)
    (hPQ : ∀ {bytes i}, P bytes i → Q bytes i) : Takes n Q f where
  taken e :=
    have ⟨bytes, hbs, hP⟩ := h.taken e
    ⟨bytes, hbs, hPQ hP⟩
  enough := h.enough

theorem Takes.takeByte {k : Byte → List Byte → Decoded} (hk : ∀ b, Takes n (fun bytes => P (b :: bytes)) (k b)) :
    Takes (n + 1) P (takeByte · k) where
  taken {bs rest i} h := by
    cases bs with
    | nil => cases h
    | cons b r =>
      obtain ⟨bytes, rfl, hP⟩ := (hk b).taken h
      exact ⟨b :: bytes, rfl, hP⟩
  enough {bs} hl := by
    cases bs with
    | nil => cases hl
    | cons b r => exact (hk b).enough (Nat.le_of_succ_le_succ hl)

theorem Takes.takeWord {k : Word → List Byte → Decoded}
    (hk : ∀ w, Takes n (fun bytes => P (wordBytes w ++ bytes)) (k w)) : Takes (n + 2) P (takeWord · k) := by
  refine .takeByte fun hi => .takeByte fun lo => ?_
  have h := hk (hi ++ lo)
  rwa [wordBytes_append] at h

theorem Takes.takeIdx {k : IdxFull → List Byte → Decoded}
    (hk : ∀ x, Takes n (fun bytes => P (idxFullBytes x ++ bytes)) (k x)) : Takes (n + 3) P (takeIdx · k) := by
  refine .takeByte fun xb => ?_
  have hxb := xbByte_xbForm xb
  revert hxb
  cases xbForm xb with
  | short f =>
    rintro rfl
    exact (hk (.direct (.short f))).mono (by omega)
  | nine r s =>
    rintro rfl
    refine Takes.mono (.takeByte fun ff => ?_) (Nat.le_succ (n + 1))
    have h := hk (.direct (.const9 r (s ++ ff)))
    rwa [idxFullBytes, idxDirectBytes_const9] at h
  | sixteen r =>
    rintro rfl
    exact .takeWord fun w => hk (.direct (.const16 r w))
  | ind16 r =>
    rintro rfl
    exact .takeWord fun w => hk (.ind16 r w)
  | indD r =>
    rintro rfl
    exact (hk (.indD r)).mono (by omega)

theorem Takes.takeIdxDirect {k : IdxDirect → List Byte → Decoded}
    (hk : ∀ x, Takes n (fun bytes => P (idxDirectBytes x ++ bytes)) (k x)) :
    Takes (n + 3) P (takeIdxDirect · k) := by
  refine .takeIdx fun x => ?_
  cases x with
  | direct x => exact hk x
  | indD r => exact .bad
  | ind16 r w => exact .bad

theorem Takes.takeIdxShort {k : IdxShort → List Byte → Decoded}
    (hk : ∀ x, Takes n (fun bytes => P (idxShortByte x :: bytes)) (k x)) : Takes (n + 1) P (takeIdxShort · k) := by
  refine .takeByte fun xb => ?_
  have hxb := xbByte_xbForm xb
  revert hxb
  cases xbForm xb with
  | short f =>
    rintro rfl
    exact hk f
  | nine r s => exact fun _ => .bad
  | sixteen r => exact fun _ => .bad
  | ind16 r => exact fun _ => .bad
  | indD r => exact fun _ => .bad

end

/-! ## Formats -/

/-- The operands that a format reads, and the instruction it answers for them (30_encoding.md R112). -/
inductive OpFormat.Builds : OpFormat → List Byte → Instr → Prop
  | inh (i : Instr) : Builds (.inh i) [] i
  | byte (f : Byte → Instr) (v : Byte) : Builds (.byte f) [v] (f v)
  | word (f : Word → Instr) (w : Word) : Builds (.word f) (wordBytes w) (f w)
  | idx (f : IdxFull → Instr) (x : IdxFull) : Builds (.idx f) (idxFullBytes x) (f x)
  | idxDirect (f : IdxDirect → Instr) (x : IdxDirect) : Builds (.idxDirect f) (idxDirectBytes x) (f x)
  | idxShort (f : IdxShort → Instr) (x : IdxShort) : Builds (.idxShort f) [idxShortByte x] (f x)
  | dirMsk (f : BitOperand → Byte → Instr) (a m : Byte) : Builds (.dirMsk f) [a, m] (f (.dir a) m)
  | extMsk (f : BitOperand → Byte → Instr) (a : Word) (m : Byte) :
    Builds (.extMsk f) (wordBytes a ++ [m]) (f (.ext a) m)
  | idxMsk (f : BitOperand → Byte → Instr) (x : IdxDirect) (m : Byte) :
    Builds (.idxMsk f) (idxDirectBytes x ++ [m]) (f (.idx x) m)
  | dirMskRel (f : BitOperand → Byte → Byte → Instr) (a m rel : Byte) :
    Builds (.dirMskRel f) [a, m, rel] (f (.dir a) m rel)
  | extMskRel (f : BitOperand → Byte → Byte → Instr) (a : Word) (m rel : Byte) :
    Builds (.extMskRel f) (wordBytes a ++ [m, rel]) (f (.ext a) m rel)
  | idxMskRel (f : BitOperand → Byte → Byte → Instr) (x : IdxDirect) (m rel : Byte) :
    Builds (.idxMskRel f) (idxDirectBytes x ++ [m, rel]) (f (.idx x) m rel)
  | callExt (a : Word) (page : Byte) : Builds .callExt (wordBytes a ++ [page]) (.call (.ext a page))
  | callIdx (x : IdxDirect) (page : Byte) : Builds .callIdx (idxDirectBytes x ++ [page]) (.call (.idx x page))
  | callIndD (r : IdxBase) : Builds .callIdx (idxFullBytes (.indD r)) (.call (.indD r))
  | callInd16 (r : IdxBase) (n : Word) : Builds .callIdx (idxFullBytes (.ind16 r n)) (.call (.ind16 r n))
  | transfer {eb : Byte} {i : Instr} (h : transferOf eb = some i) : Builds .transfer [eb] i
  | loop {lb rr : Byte} {i : Instr} (h : loopOf lb rr = some i) : Builds .loop [lb, rr] i
  | movImm8Ext (v : Byte) (d : Word) : Builds .movImm8Ext (v :: wordBytes d) (.movb (.imm v) (.ext d))
  | movImm8Idx (v : Byte) (d : IdxShort) : Builds .movImm8Idx [idxShortByte d, v] (.movb (.imm v) (.idx d))
  | movImm16Ext (v d : Word) : Builds .movImm16Ext (wordBytes v ++ wordBytes d) (.movw (.imm v) (.ext d))
  | movImm16Idx (v : Word) (d : IdxShort) :
    Builds .movImm16Idx (idxShortByte d :: wordBytes v) (.movw (.imm v) (.idx d))
  | movExtExt (f : Word → Word → Instr) (a d : Word) : Builds (.movExtExt f) (wordBytes a ++ wordBytes d) (f a d)
  | movExtIdx (f : Word → IdxShort → Instr) (a : Word) (d : IdxShort) :
    Builds (.movExtIdx f) (idxShortByte d :: wordBytes a) (f a d)
  | movIdxExt (f : IdxShort → Word → Instr) (x : IdxShort) (d : Word) :
    Builds (.movIdxExt f) (idxShortByte x :: wordBytes d) (f x d)
  | movIdxIdx (f : IdxShort → IdxShort → Instr) (x d : IdxShort) :
    Builds (.movIdxIdx f) [idxShortByte x, idxShortByte d] (f x d)


/-- The most bytes that a format reads (30_encoding.md R112). -/
def OpFormat.most : OpFormat → Nat
  | .inh _ => 0
  | .byte _ => 1
  | .word _ => 2
  | .idx _ => 3
  | .idxDirect _ => 3
  | .idxShort _ => 1
  | .dirMsk _ => 2
  | .extMsk _ => 3
  | .idxMsk _ => 4
  | .dirMskRel _ => 3
  | .extMskRel _ => 4
  | .idxMskRel _ => 5
  | .callExt => 3
  | .callIdx => 4
  | .transfer => 1
  | .loop => 2
  | .movImm8Ext => 3
  | .movImm8Idx => 2
  | .movImm16Ext => 4
  | .movImm16Idx => 3
  | .movExtExt _ => 4
  | .movExtIdx _ => 3
  | .movIdxExt _ => 3
  | .movIdxIdx _ => 2

/-- A format takes operands that make the instruction it answers. -/
theorem readOperands_takes (fmt : OpFormat) : Takes fmt.most fmt.Builds (readOperands fmt) := by
  unfold readOperands
  cases fmt with
  | inh i => exact .ok (.inh i)
  | byte f => exact .takeByte fun v => .ok (.byte f v)
  | word f => exact .takeWord fun w => .ok (.word f w)
  | idx f => exact .takeIdx fun x => .ok (by simpa using .idx f x)
  | idxDirect f => exact .takeIdxDirect fun x => .ok (by simpa using .idxDirect f x)
  | idxShort f => exact .takeIdxShort fun x => .ok (.idxShort f x)
  | dirMsk f => exact .takeByte fun a => .takeByte fun m => .ok (.dirMsk f a m)
  | extMsk f => exact .takeWord fun a => .takeByte fun m => .ok (.extMsk f a m)
  | idxMsk f => exact .takeIdxDirect fun x => .takeByte fun m => .ok (.idxMsk f x m)
  | dirMskRel f => exact .takeByte fun a => .takeByte fun m => .takeByte fun rel => .ok (.dirMskRel f a m rel)
  | extMskRel f => exact .takeWord fun a => .takeByte fun m => .takeByte fun rel => .ok (.extMskRel f a m rel)
  | idxMskRel f =>
    exact .takeIdxDirect fun x => .takeByte fun m => .takeByte fun rel => .ok (.idxMskRel f x m rel)
  | callExt => exact .takeWord fun a => .takeByte fun page => .ok (.callExt a page)
  | callIdx =>
    refine .takeIdx fun x => ?_
    cases x with
    | direct x => exact .takeByte fun page => .ok (.callIdx x page)
    | indD r => exact .ok (.callIndD r)
    | ind16 r w => exact .ok (.callInd16 r w)
  | transfer =>
    refine .takeByte fun eb => ?_
    cases h : transferOf eb with
    | some i => exact .ok (.transfer h)
    | none => exact .bad
  | loop =>
    refine .takeByte fun lb => .takeByte fun rr => ?_
    cases h : loopOf lb rr with
    | some i => exact .ok (.loop h)
    | none => exact .bad
  | movImm8Ext => exact .takeByte fun v => .takeWord fun d => .ok (.movImm8Ext v d)
  | movImm8Idx => exact .takeIdxShort fun d => .takeByte fun v => .ok (.movImm8Idx v d)
  | movImm16Ext => exact .takeWord fun v => .takeWord fun d => .ok (.movImm16Ext v d)
  | movImm16Idx => exact .takeIdxShort fun d => .takeWord fun v => .ok (.movImm16Idx v d)
  | movExtExt f => exact .takeWord fun a => .takeWord fun d => .ok (.movExtExt f a d)
  | movExtIdx f => exact .takeIdxShort fun d => .takeWord fun a => .ok (.movExtIdx f a d)
  | movIdxExt f => exact .takeIdxShort fun x => .takeWord fun d => .ok (.movIdxExt f x d)
  | movIdxIdx f => exact .takeIdxShort fun x => .takeIdxShort fun d => .ok (.movIdxIdx f x d)

/-! ## Opcodes -/

/-- These bytes are those of `i`, which is well formed and no second name. -/
structure Spells (bs : List Byte) (i : Instr) : Prop where
  bytes : encode i = bs
  wf : i.wf = true
  canonical : i.canonical = i

/-- The opcode `op`, with its prebyte on page two, and the operands of the format spell what the format builds. -/
def OpFormat.Spelled (op : List Byte) (fmt : OpFormat) : Prop :=
  ∀ operands i, fmt.Builds operands i → Spells (op ++ operands) i

/-- Every transfer postbyte that is not reserved (30_encoding.md R140). -/
theorem spells_transfer {eb : Byte} {i : Instr} (h : transferOf eb = some i) : Spells [0xB7, eb] i := by
  have key : ∀ eb, ∀ i ∈ transferOf eb, encode i = [0xB7, eb] ∧ i.wf = true ∧ i.canonical = i := by decide
  obtain ⟨h1, h2, h3⟩ := key eb i h
  exact ⟨h1, h2, h3⟩

/-- Every counter code is the one of the counter it says (30_encoding.md R145). -/
theorem loopRegCode_of {c : BitVec 3} {r : LoopReg} (h : loopRegOf c = some r) : loopRegCode r = c := by
  have key : ∀ c, ∀ r ∈ loopRegOf c, loopRegCode r = c := by decide
  exact key c r h

/-- The fields of a loop postbyte, bit 3 clear (30_encoding.md R145). -/
theorem loopByte_parts {lb : Byte} (h : lb.getLsbD 3 = false) :
    (lb.extractLsb' 5 3 ++ lb.extractLsb' 4 1 ++ 0#1 ++ lb.extractLsb' 0 3 : Byte) = lb := by
  revert lb
  decide

theorem spells_loopOp {op : BitVec 3} {make : LoopReg → BitVec 9 → Instr} (h : loopOpOf op = some make) (r : LoopReg)
    (off : BitVec 9) : Spells (loopBytes op r off) (make r off) := by
  unfold loopOpOf at h
  split_ifs at h <;> cases h <;> subst_vars <;> exact ⟨rfl, rfl, rfl⟩

theorem spells_loop {lb rr : Byte} {i : Instr} (h : loopOf lb rr = some i) : Spells [0x04, lb, rr] i := by
  unfold loopOf at h
  split at h
  case isTrue => cases h
  case isFalse hbit =>
    split at h
    case h_1 op r hop hr =>
      cases h
      have hs := spells_loopOp hop r (lb.extractLsb' 4 1 ++ rr)
      rwa [loopBytes, BitVec.extractLsb'_append_eq_left, BitVec.extractLsb'_append_eq_right, loopRegCode_of hr,
        loopByte_parts (by simpa using hbit)] at hs
    case h_2 => cases h

/-- Page one (30_encoding.md R147), cell by cell but for the prebyte. -/
theorem pageOne_spelled {op : Byte} (hpre : op ≠ 0x18) : (pageOne op).Spelled [op] := by
  intro operands i h
  obtain ⟨n, hn, rfl⟩ : ∃ n < 256, op = BitVec.ofNat 8 n := ⟨op.toNat, op.isLt, by simp⟩
  have hne : n ≠ 0x18 := fun e => hpre (congrArg (BitVec.ofNat 8) e)
  clear hpre
  rcases Nat.lt_or_gt_of_ne hne with hlt | hgt <;> clear hne <;> interval_cases n <;> cases h
  case loop h => exact spells_loop h
  case transfer h => exact spells_transfer h
  all_goals exact ⟨rfl, rfl, rfl⟩

theorem trapNumberOk_of_le {tn : Byte} (h : 0x40 ≤ tn) : trapNumberOk tn = true :=
  (Bool.or_eq_true ..).mpr (.inr (decide_eq_true h))

/-- Page two (30_encoding.md R148), cell by cell up to $3F; from $40 on every second byte is the number of a TRAP. -/
theorem pageTwo_spelled (op : Byte) : (pageTwo op).Spelled [0x18, op] := by
  intro operands i h
  by_cases htrap : 0x40 ≤ op
  · rw [pageTwo, if_pos htrap] at h
    cases h
    exact ⟨rfl, trapNumberOk_of_le htrap, rfl⟩
  · have hop : op.toNat < 0x40 := by simpa [BitVec.le_def] using htrap
    obtain ⟨n, hn, rfl⟩ : ∃ n < 0x40, op = BitVec.ofNat 8 n := ⟨op.toNat, hop, by simp⟩
    clear htrap hop
    interval_cases n <;> cases h <;> exact ⟨rfl, rfl, rfl⟩

theorem pageOne_most : ∀ op, (pageOne op).most ≤ 5 := by decide

theorem pageTwo_most : ∀ op, (pageTwo op).most ≤ 4 := by decide

/-- The decoder takes the bytes of the instruction it answers, and needs no more than six (30_encoding.md R110,
R111). -/
theorem decode_takes : Takes 6 Spells decode := by
  refine .takeByte fun op => ?_
  by_cases hpre : op = 0x18
  · simp only [hpre, ↓reduceIte]
    exact Takes.takeByte fun op => ((readOperands_takes _).mono (pageTwo_most op)).imp (pageTwo_spelled op _ _)
  · simp only [hpre, ↓reduceIte]
    exact ((readOperands_takes _).mono (pageOne_most op)).imp (pageOne_spelled hpre _ _)

end Sys2Proof
end

section
/-!
PROOFS. Encoding and decoding are inverse to each other, and a second name is its instruction (30_encoding.md).
-/

namespace Sys2Proof

/-- Settles O1: every well-formed instruction is read back from its bytes. -/
theorem decodeOfEncodeIsTheInstruction : Obligations.DecodeOfEncodeIsTheInstruction :=
  fun i rest h => (reads_encode i h).decodes rest

/-- Settles O2: the decoder takes the bytes that spell its answer, and six are enough. -/
theorem encodeOfDecodeIsTheBytes : Obligations.EncodeOfDecodeIsTheBytes := by
  unfold Obligations.EncodeOfDecodeIsTheBytes
  refine ⟨fun bs rest i h => ?_, fun _ => decode_takes.enough⟩
  obtain ⟨bytes, rfl, hbytes, hwf, hcanonical⟩ := decode_takes.taken h
  exact ⟨by rw [hbytes], hwf, hcanonical⟩

/-- Settles O3: ten words are the bytes of their instructions, and three postbytes are refused. -/
theorem writtenWordsDecode : Obligations.WrittenWordsDecode := by
  have reads (i : Instr) (h : i.wf = true) : decode (encode i ++ []) = .ok i.canonical [] :=
    (reads_encode i h).decodes []
  unfold Obligations.WrittenWordsDecode
  exact ⟨reads (.adda (.imm 0x80)) rfl, reads (.std (.dir 0x40)) rfl, reads (.ldaa (.mem (.idx (.ind16 .x 2)))) rfl,
    reads (.leax (.short (.acc .x .b))) rfl, reads (.tfr (.r16 .x) (.r16 .sp)) rfl, by decide,
    reads (.movw (.ext 0x1000) (.ext 0x2000)) rfl, reads (.brset (.idx (.const16 .x 0x1234)) 0x01 0x10) rfl,
    reads (.lbra 0xFFFC) rfl, reads (.trap 0x30) rfl, rfl, rfl, rfl⟩

/-- Settles O10: the equality for every instruction is the law of second names. -/
theorem secondNamesAreTheirInstructions : Obligations.SecondNamesAreTheirInstructions := Machine.exec_canonical

end Sys2Proof
end

section
/-!
PROOFS. Every instruction answers a next state or the refusal that `stopOf` names (30_encoding.md R131, R147, R148;
40_load_store_lea.md R174 to R176; 46_fuzzy.md R527, R529).
-/

namespace Sys2Proof.Machine

section
variable {i : Instr} {s t : State}

/-- Where the decision `c` refuses an instruction, it is refused by name, and else it answers a next state. -/
theorem stops_or_answers_of_ite {c : Prop} [Decidable c] {r : Refusal}
    (hstop : stopOf i s = if c then some r else none) (hx : exec i s = if c then .refused r else .next t) :
    (∃ r, stopOf i s = some r ∧ exec i s = .refused r) ∨ stopOf i s = none ∧ ∃ t, exec i s = .next t := by
  by_cases hc : c
  · exact .inl ⟨r, hstop.trans (if_pos hc), hx.trans (if_pos hc)⟩
  · exact .inr ⟨hstop.trans (if_neg hc), t, hx.trans (if_neg hc)⟩

/-- Every instruction is refused by the name that `stopOf` gives, or answers a next state where it gives none. -/
theorem stops_or_answers (i : Instr) (s : State) :
    (∃ r, stopOf i s = some r ∧ exec i s = .refused r) ∨ stopOf i s = none ∧ ∃ t, exec i s = .next t := by
  cases i
  case leas f | leax f | leay f | movb src dst | movw src dst | wav | wavr => exact stops_or_answers_of_ite rfl rfl
  case stop | bgnd => exact .inr ⟨rfl, _, (apply_ite Host.Outcome.next _ _ _).symm⟩
  all_goals exact .inr ⟨rfl, _, rfl⟩

/-- No instruction changes the parameters of the machine (00_scope.md R5). -/
theorem exec_cfg (hx : exec i s = .next t) : t.cfg = s.cfg := by
  by_cases hi : i = .rev ∨ i = .revw
  · exact (exec_rule_lasting hi hx).config
  · exact (exec_steady (fun e => hi (.inl e)) (fun e => hi (.inr e)) hx).config

end

/-- Settles O9: the refusal or the next state by `stops_or_answers`, the parameters by `exec_cfg`. -/
theorem everyInstructionCompletesOrIsRefusedByName : Obligations.EveryInstructionCompletesOrIsRefusedByName := by
  unfold Obligations.EveryInstructionCompletesOrIsRefusedByName
  intro i s
  obtain ⟨r, hstop, hx⟩ | ⟨hstop, t, hx⟩ := stops_or_answers i s
  · rw [hstop]
    exact hx
  · rw [hstop]
    exact ⟨t, hx, exec_cfg hx⟩

end Sys2Proof.Machine
end

section
/-!
PROOFS. MOVB and MOVW (41_move_transfer_stack.md R200, R201).
-/

namespace Sys2Proof.Machine

/-- Reading the source of MOVB changes at most the automatic base. -/
theorem State.effect_moveSource8 (s : State) (o : MoveSource8) :
    Effect s (s.moveSource8 o).2 (source8Auto o) [] [] := by
  cases o with
  | imm v => exact Effect.refl ..
  | ext a => exact State.effect_read8 ..
  | idx f => exact (s.effect_eaShort f).after (by simp) (State.effect_read8 ..)

/-- The same for MOVW. -/
theorem State.effect_moveSource16 (s : State) (o : MoveSource16) :
    Effect s (s.moveSource16 o).2 (source16Auto o) [] [] := by
  cases o with
  | imm v => exact Effect.refl ..
  | ext a => exact State.effect_read16 ..
  | idx f => exact (s.effect_eaShort f).after (by simp) (State.effect_read16 ..)

/-- A move is refused with PC as base on the M68HC12 (30_encoding.md R131). -/
theorem moveRefused_iff (s : State) (p q : Bool) :
    moveRefused s (p || q) = true ↔ s.cfg.variant = .m68hc12 ∧ (p = true ∨ q = true) := by
  simp [moveRefused]

/-- A move of what was read in `w`, the state after the source: the destination address is found in `w`, and the
stores come last (30_encoding.md R130). -/
theorem move_completes {i : Instr} {s w t : State} {dst : MoveDest} {auto : List RegName} {l : List (Word × Byte)}
    (hx : exec i s = .next t) (hw : Effect (s.advance i) w auto [] []) (hm : w.mem = s.mem) (hpc : w.pc = s.pcNext i)
    (ht : Effect (w.eaDest dst).2 t [] [] l) (htpc : t.pc = (w.eaDest dst).2.pc) :
    CompletesVia i s (w.eaDest dst).2 [] (auto ++ destAuto dst) [] l fun _ => True := by
  have hsource : Effect s w auto [] [] := (s.effect_advance i _ _).after rfl hw
  have hdest : Effect s (w.eaDest dst).2 (auto ++ destAuto dst) [] [] := hsource.both (w.effect_eaDest dst)
  exact ⟨t, hx, by simp [htpc, hpc], hdest.after (by simp [hm]) (ht.mono (by simp) (by simp)),
    fun r _ => ht.registers r (by simp), trivial⟩

/-- Settles O22: the source, then the destination address, then the stores. -/
theorem memoryMoves : Obligations.MemoryMoves := by
  unfold Obligations.MemoryMoves
  refine ⟨fun src dst s => ?movb, fun src dst s => ?movw⟩
  case movb =>
    split
    case isTrue h => exact if_pos ((moveRefused_iff ..).mpr h)
    case isFalse h =>
      exact move_completes (if_neg (mt (moveRefused_iff ..).mp h)) (State.effect_moveSource8 ..) (by simp)
        (by simp [State.pcNext]) (State.effect_write8 ..) (State.write8_pc ..)
  case movw =>
    split
    case isTrue h => exact if_pos ((moveRefused_iff ..).mpr h)
    case isFalse h =>
      exact move_completes (if_neg (mt (moveRefused_iff ..).mp h)) (State.effect_moveSource16 ..) (by simp)
        (by simp [State.pcNext]) (State.effect_write16 ..) (State.write16_pc ..)

end Sys2Proof.Machine
end

section
/-!
PROOFS. Conditional branches and loop primitives (45_branch_jump_call.md R440, R485 to R491).
-/

namespace Sys2Proof.Machine

/-! ## Branches on CCR -/

/-- A branch on the condition `c`, which says of the flags what the statement says. -/
theorem branchRule_of_cond {i : Instr} {off : Word} {taken : State → Bool} (c : Cond)
    (hc : ∀ s, condHolds s.ccr c = taken s := by exact fun _ => rfl)
    (hx : ∀ s, exec i s = .next ((s.advance i).branch (condHolds s.ccr c) off) := by exact fun _ => rfl) :
    BranchRule i taken off := by
  intro s
  refine ⟨_, hx s, ?_, (s.effect_advance i _ _).andThen (State.effect_branch ..)⟩
  rw [State.branch_pc, hc]
  rfl

/-- Settles O45: each branch by its condition, short or long. -/
theorem conditionalBranches : Obligations.ConditionalBranches := by
  have hsigned := condHolds_signed
  simp only [forall_and] at hsigned
  obtain ⟨hge, hlt, hgt, hle⟩ := hsigned
  unfold Obligations.ConditionalBranches
  refine ⟨fun rr => ?_, fun off => ?_⟩ <;>
    exact ⟨branchRule_of_cond .always, branchRule_of_cond .never, branchRule_of_cond .hi, branchRule_of_cond .ls,
      branchRule_of_cond .cc, branchRule_of_cond .cc, branchRule_of_cond .cs, branchRule_of_cond .cs,
      branchRule_of_cond .ne, branchRule_of_cond .eq, branchRule_of_cond .vc, branchRule_of_cond .vs,
      branchRule_of_cond .pl, branchRule_of_cond .mi, branchRule_of_cond .ge hge, branchRule_of_cond .lt hlt,
      branchRule_of_cond .gt hgt, branchRule_of_cond .le hle⟩

/-! ## Loop primitives -/

/-- A register moved by an integer, as an unsigned number. -/
theorem add_ofInt_toNat {w : Nat} (v : BitVec w) (k : Int) :
    ((v + BitVec.ofInt w k).toNat : Int) = (v.toNat + k) % (2 ^ w : Nat) := by
  rw [BitVec.toNat_add, BitVec.toNat_ofInt]
  have hpos : (0 : Int) < (2 ^ w : Nat) := by positivity
  rw [Int.natCast_mod, Int.natCast_add, Int.toNat_of_nonneg (Int.emod_nonneg _ (by omega)), Int.add_emod_emod]

/-- The counter after its move (45_branch_jump_call.md R485). -/
theorem State.loopValue_addCounter (s : State) (r : LoopReg) (k : Int) :
    LoopRule.loopValue (s.addCounter r k) r = (LoopRule.loopValue s r + k) % LoopRule.loopModulus r := by
  cases r with
  | a => exact add_ofInt_toNat s.a k
  | b => exact add_ofInt_toNat s.b k
  | d =>
    have h := add_ofInt_toNat s.d k
    rwa [← s.setD_d (s.d + _)] at h
  | x => exact add_ofInt_toNat s.x k
  | y => exact add_ofInt_toNat s.y k
  | sp => exact add_ofInt_toNat s.sp k

/-- A counter is its registers. -/
theorem State.effect_addCounter (s : State) (r : LoopReg) (k : Int) :
    Effect s (s.addCounter r k) (LoopRule.loopNames r) [] [] := by
  cases r <;> refine .of_registers ?_ ?_ ?_ ?_ ?_ fun _ _ => rfl <;> simp [LoopRule.loopNames, State.addCounter]

/-- A branch sees the counter as the move left it. -/
theorem LoopRule.loopValue_branch (s : State) (taken : Bool) (off : Word) (r : LoopReg) :
    loopValue (s.branch taken off) r = loopValue s r := by
  cases taken <;> cases r <;> rfl

theorem LoopRule.loopValue_advance (s : State) (i : Instr) (r : LoopReg) :
    loopValue (s.advance i) r = loopValue s r := by
  cases r <;> rfl

/-- A loop primitive: the counter moves, then the branch is taken or not. -/
theorem loopRule_of_exec {make : LoopReg → BitVec 9 → Instr} {k : Int} {onZero : Bool}
    (hx : ∀ r off s, exec (make r off) s = .next ((s.advance (make r off)).loopBranch r k onZero off)) :
    LoopRule make k onZero := by
  intro r off s
  have hvalue : LoopRule.loopValue ((s.advance (make r off)).loopBranch r k onZero off) r =
      (LoopRule.loopValue s r + k) % LoopRule.loopModulus r := by
    rw [State.loopBranch, LoopRule.loopValue_branch, State.loopValue_addCounter, LoopRule.loopValue_advance]
  refine ⟨_, hx r off s, ?effect, hvalue, ?pc⟩
  case effect =>
    exact ((s.effect_advance _ _ _).andThen (State.effect_addCounter ..)).andThen (State.effect_branch ..)
  case pc =>
    rw [hvalue, State.loopBranch, State.branch_pc, State.counterZero_addCounter, LoopRule.loopValue_advance]
    simp [State.pcNext]

/-- Settles O47: each primitive by the move of its counter and its test. -/
theorem loopPrimitives : Obligations.LoopPrimitives := by
  unfold Obligations.LoopPrimitives
  refine ⟨?_, ?_, ?_, ?_, ?_, ?_⟩ <;> exact loopRule_of_exec fun _ _ _ => rfl

end Sys2Proof.Machine
end

section
/-!
PROOFS. Loads of memory and of effective addresses (40_load_store_lea.md R160 to R167, R174 to R180).
-/

namespace Sys2Proof.Machine

/-! ## Loads -/

/-- A load of an accumulator (40_load_store_lea.md R162): the operand replaces it whatever it held. -/
theorem loadRule8_of_exec {make : Operand8 → Instr} {r : Acc}
    (hx : ∀ o s, exec (make o) s = .next ((s.advance (make o)).with8 o fun m t =>
      t.setAcc r (m, logicFlags8 t.ccr m))) : LoadRule8 make r := by
  intro o s
  exact accumulate_completes (op := fun c _ m => (m, logicFlags8 c m)) (hx o s) (by simp +contextual)
    fun t ht hc => ⟨ht, flagsNZV8_logic _ _ _ hc⟩

/-- A load of a word register (40_load_store_lea.md R164): it is written after the operand access, so the loaded value
wins over an automatic modification of the same register (30_encoding.md R130). -/
theorem loadRule16_of_exec {make : Operand16 → Instr} {q : Reg16}
    (hx : ∀ o s, exec (make o) s = .next ((s.advance (make o)).with16 o fun m t =>
      (t.setReg16 q m).setCcr (logicFlags16 t.ccr m))) :
    LoadRule16 make (regNames (.r16 q)) fun t => t.getReg16 q := by
  intro o s
  refine with16_completes (hx o s) (fun m u => u.setReg16_pc q m) (fun m u => ?frame) ⟨?value, ?flags⟩
  case frame =>
    exact ((u.effect_setReg16 q m).mono (fun _ h => h) (by simp)).andThen
      (State.effect_setCcr _ _ _ _ (by simp +contextual))
  case value => exact State.getReg16_setReg16 _ q _
  case flags => exact flagsNZV16_logic _ _ _ rfl

/-- Settles O19: each load by the register it writes. -/
theorem loads : Obligations.Loads := by
  unfold Obligations.Loads
  exact ⟨loadRule8_of_exec (r := .a) fun _ _ => rfl, loadRule8_of_exec (r := .b) fun _ _ => rfl,
    loadRule16_of_exec (q := .d) fun _ _ => rfl, loadRule16_of_exec (q := .sp) fun _ _ => rfl,
    loadRule16_of_exec (q := .x) fun _ _ => rfl, loadRule16_of_exec (q := .y) fun _ _ => rfl⟩

/-! ## Effective addresses -/

/-- Reading an automatic base after a write to it. -/
@[simp] theorem State.setAutoBase_reg (s : State) (r : AutoBase) (v : Word) :
    (s.setAutoBase r v).reg (autoName r) = v := by
  cases r <;> rfl

/-- A LEA is refused for the post forms on its destination (D28), and else writes the address after the automatic
modification (30_encoding.md R130). -/
theorem leaRule_of_exec {make : IdxDirect → Instr} {own : AutoBase}
    (hx : ∀ f s, exec (make f) s = leaInto f own (s.advance (make f))) : LeaRule make own := by
  intro f s
  split
  case isTrue h => exact (hx f s).trans (if_pos h)
  case isFalse h =>
    let p := (s.advance (make f)).eaDirect f
    have hea : Effect s p.2 (directAuto f) [] [] := (s.effect_advance _ _ _).after rfl (State.effect_eaDirect _ f)
    have hset : Effect p.2 (p.2.setAutoBase own p.1) [autoName own] [] [] := p.2.effect_setAutoBase own p.1
    exact ⟨_, (hx f s).trans (if_neg h), by simp [State.pcNext],
      (hea.both hset).mono (by simp +contextual) (by simp), hset.registers, State.setAutoBase_reg ..⟩

/-- B added to an index register is unsigned (40_load_store_lea.md R177; PRESUMED K23). -/
theorem add_byte_toNat (v : Word) (m : Byte) : (v + m.zeroExtend 16).toNat = (v.toNat + m.toNat) % 65536 := by
  rw [BitVec.toNat_add, BitVec.toNat_setWidth_of_le (by decide)]

/-- Settles O21: the LEAs by `leaRule_of_exec`, the others as writes of one register. -/
theorem loadEffectiveAddress : Obligations.LoadEffectiveAddress := by
  unfold Obligations.LoadEffectiveAddress
  refine ⟨leaRule_of_exec fun _ _ => rfl, leaRule_of_exec fun _ _ => rfl, leaRule_of_exec fun _ _ => rfl,
    fun s => ?abx, fun s => ?aby, fun s => ?des, fun s => ?ins⟩
  case abx =>
    exact setReg16_completes (q := .x) rfl fun t ht => (congrArg BitVec.toNat ht).trans (add_byte_toNat s.x s.b)
  case aby =>
    exact setReg16_completes (q := .y) rfl fun t ht => (congrArg BitVec.toNat ht).trans (add_byte_toNat s.y s.b)
  case des =>
    exact setReg16_completes (q := .sp) rfl fun t ht => (congrArg BitVec.toNat ht).trans (word_toNat_sub s.sp 1)
  case ins =>
    exact setReg16_completes (q := .sp) rfl fun t ht => (congrArg BitVec.toNat ht).trans (BitVec.toNat_add s.sp 1)

end Sys2Proof.Machine
end

section
/-!
PROOFS. Pushes and pulls (41_move_transfer_stack.md R230 to R241).
-/

namespace Sys2Proof.Machine

/-! ## Pushes -/

/-- A byte pushed (R230, R231, R232). -/
theorem push8_completes {i : Instr} {s : State} {v : Byte} (hx : exec i s = .next ((s.advance i).push8 v)) :
    Completes i s [.sp] [] [(s.sp - 1, v)] fun t => t.sp = s.sp - 1 :=
  ⟨_, hx, by simp [State.pcNext], (s.effect_advance i _ _).after rfl ((s.advance i).effect_push8 v), by simp⟩

/-- A word pushed, the high byte lower (R233, R234, R235). -/
theorem push16_completes {i : Instr} {s : State} {v : Word} (hx : exec i s = .next ((s.advance i).push16 v)) :
    Completes i s [.sp] [] (wordStores (s.sp - 2) v) fun t => t.sp = s.sp - 2 :=
  ⟨_, hx, by simp [State.pcNext], (s.effect_advance i _ _).after rfl ((s.advance i).effect_push16 v), by simp⟩

/-! ## Pulls -/

/-- `Pull8` changes SP alone (00_scope.md R10). -/
theorem State.effect_pull8 (s : State) : Effect s s.pull8.2 [.sp] [] [] :=
  (s.effect_read8 s.sp [.sp] []).andThen (State.effect_setSp _ _)

/-- What a byte register takes depends on X alone, and a pull leaves CCR. -/
@[simp] theorem State.pull8_written8 (s : State) (r : Reg8) (v : Byte) : s.pull8.2.written8 r v = s.written8 r v := by
  simp [State.written8]

/-- A byte pulled into a register (R236, R237, R238). -/
theorem pull8_completes {i : Instr} {s : State} {q : Reg8}
    (hx : exec i s = .next ((s.advance i).pull8.2.setReg8 q (s.advance i).pull8.1)) :
    Completes i s (regNames (.r8 q) ++ [.sp]) (regFlags (.r8 q)) [] fun t =>
      t.getReg8 q = s.written8 q (s.read8 s.sp).1 ∧ t.sp = s.sp + 1 := by
  refine completes_of_registers hx (by simp) ?effect ⟨?value, by simp⟩
  case effect =>
    exact ((s.advance i).effect_pull8.both (State.effect_setReg8 _ q _)).mono (by simp +contextual) (by simp)
  case value => simp [State.pull8_advance_fst]

/-- A word pulled into a register other than SP (R239, R240, R241). -/
theorem pull16_completes {i : Instr} {s : State} {q : Reg16} (hq : .sp ≠ q)
    (hx : exec i s = .next ((s.advance i).pull16.2.setReg16 q (s.advance i).pull16.1)) :
    Completes i s (regNames (.r16 q) ++ [.sp]) [] [] fun t =>
      t.getReg16 q = (s.read16 s.sp).1 ∧ t.sp = s.sp + 2 := by
  refine completes_of_registers hx (by simp) ?effect ⟨?value, ?sp⟩
  case effect =>
    exact ((s.advance i).effect_pull16.both (State.effect_setReg16 _ q _)).mono (by simp +contextual) (by simp)
  case value => simp [State.pull16_advance_fst]
  case sp => exact (State.getReg16_setReg16_of_ne _ hq _).trans (by simp [State.getReg16])

/-- Settles O26: each push and each pull by the register's size; PULC pulls under `WriteCCR`. -/
theorem pushesAndPulls : Obligations.PushesAndPulls := by
  unfold Obligations.PushesAndPulls
  refine ⟨?psha, ?pshb, ?pshc, ?pshd, ?pshx, ?pshy, ?pula, ?pulb, ?pulc, ?puld, ?pulx, ?puly⟩
  case psha | pshb | pshc => exact fun s => push8_completes rfl
  case pshd | pshx | pshy => exact fun s => push16_completes rfl
  case pula => exact fun s => pull8_completes (q := .a) rfl
  case pulb => exact fun s => pull8_completes (q := .b) rfl
  case pulc =>
    intro s
    let p := (s.advance .pulc).pull8
    have hccr : s.ccr = p.2.ccr := by simp [p]
    exact pull8_completes (q := .ccr) (congrArg (fun c => Host.Outcome.next (p.2.setCcr (writeCcr c p.1))) hccr)
  case puld => exact fun s => pull16_completes (q := .d) (by decide) rfl
  case pulx => exact fun s => pull16_completes (q := .x) (by decide) rfl
  case puly => exact fun s => pull16_completes (q := .y) (by decide) rfl

end Sys2Proof.Machine
end

section
/-!
PROOFS. DAA (42_arithmetic.md R273): the two corrections for every byte and every state, and the decimal sum that ADDA
and DAA leave of two numbers of two digits.
-/

namespace Sys2Proof.Machine

/-! ## The correction -/

/-- The carry of DAA, as R273 says it. -/
theorem daaCorrection_carry (ccr a : Byte) :
    (daaCorrection ccr a).2 = decide (getFlag ccr .c = true ∨ 153 < a.toNat) := by
  simp [daaCorrection]

/-- The two digit corrections of DAA, as R273 says them. -/
theorem daaCorrection_amount (ccr a : Byte) :
    (daaCorrection ccr a).1 = (if getFlag ccr .h = true ∨ 9 < a.toNat % 16 then 6 else 0) +
      (if getFlag ccr .c = true ∨ 153 < a.toNat then 96 else 0) := by
  simp [daaCorrection]

/-- DAA adds the two corrections modulo 256. -/
theorem daa8_toNat (ccr a : Byte) (v : Bool) :
    (daa8 ccr a v).1.toNat = (a.toNat + (if getFlag ccr .h = true ∨ 9 < a.toNat % 16 then 6 else 0) +
      (if getFlag ccr .c = true ∨ 153 < a.toNat then 96 else 0)) % 256 := by
  rw [Nat.add_assoc, ← daaCorrection_amount]
  exact BitVec.toNat_ofNat ..

/-! ## Decimal digits -/

/-- The byte of two decimal digits, as a number. -/
theorem bcd_toNat {n : Nat} (hn : n < 100) : (bcd n).toNat = 16 * (n / 10) + n % 10 := by
  rw [bcd, BitVec.toNat_ofNat]
  omega

section
variable {p q : Nat} (hp : p ≤ 18) (hq : q ≤ 18)
include hp hq

/-- With `p` the sum of the high digits and `q` that of the low ones, the binary sum carries or passes $99 exactly where
the decimal one passes 99: also where the low column's carry is what makes it. -/
theorem columns_high_iff : (256 ≤ 16 * p + q ∨ 153 < (16 * p + q) % 256) ↔ 100 ≤ 10 * p + q := by omega

/-- With each carrying column corrected, the binary sum holds the two last digits of the decimal one. -/
theorem columns_corrected :
    ((16 * p + q) % 256 + (if 10 ≤ q then 6 else 0) + (if 100 ≤ 10 * p + q then 96 else 0)) % 256 =
      16 * ((10 * p + q) % 100 / 10) + (10 * p + q) % 100 % 10 := by
  have hlow : (10 * p + q) % 100 % 10 = if 10 ≤ q then q - 10 else q := by split <;> omega
  have hhigh : (10 * p + q) % 100 / 10 =
      (if 10 ≤ q then p + 1 else p) - if 100 ≤ 10 * p + q then 10 else 0 := by split <;> split <;> omega
  rw [hlow, hhigh]
  split <;> split <;> omega

end

/-- The decimal sum of two numbers, by its columns. -/
theorem decimal_columns (m n : Nat) : m + n = 10 * (m / 10 + n / 10) + (m % 10 + n % 10) := by omega

section
variable {m n : Nat} (hm : m < 100) (hn : n < 100) (ccr : Byte)
include hm hn

/-- The binary sum of two decimal bytes. -/
theorem add8_bcd_toNat : (add8 ccr (bcd m) (bcd n) false).1.toNat =
    (16 * (m / 10 + n / 10) + (m % 10 + n % 10)) % 256 := by
  rw [add8_toNat, bcd_toNat hm, bcd_toNat hn, Bool.toNat_false]
  omega

/-- The binary sum of two decimal bytes needs the low correction exactly where their low digits carry. -/
theorem add8_bcd_low_iff :
    (getFlag (add8 ccr (bcd m) (bcd n) false).2 .h = true ∨ 9 < (add8 ccr (bcd m) (bcd n) false).1.toNat % 16) ↔
      10 ≤ m % 10 + n % 10 := by
  have hh : getFlag (add8 ccr (bcd m) (bcd n) false).2 .h = true ↔ 16 ≤ m % 10 + n % 10 := by
    simp only [getFlag_add8, reduceCtorEq, ↓reduceIte, decide_eq_true_eq, bcd_toNat hm, bcd_toNat hn,
      bitOf_eq_toNat, Bool.toNat_false]
    omega
  rw [hh, add8_bcd_toNat hm hn]
  omega

/-- The binary sum of two decimal bytes needs the high correction exactly where the numbers sum to 100 or more. -/
theorem add8_bcd_high_iff :
    (getFlag (add8 ccr (bcd m) (bcd n) false).2 .c = true ∨ 153 < (add8 ccr (bcd m) (bcd n) false).1.toNat) ↔
      100 ≤ m + n := by
  have hc : getFlag (add8 ccr (bcd m) (bcd n) false).2 .c = true ↔
      256 ≤ 16 * (m / 10 + n / 10) + (m % 10 + n % 10) := by
    simp only [getFlag_add8, ↓reduceIte, decide_eq_true_eq, bcd_toNat hm, bcd_toNat hn, bitOf_eq_toNat,
      Bool.toNat_false]
    omega
  rw [hc, add8_bcd_toNat hm hn, decimal_columns m n]
  exact columns_high_iff (by omega) (by omega)

/-- DAA makes the binary sum of two decimal bytes their decimal sum. -/
theorem daa8_add8_bcd (v : Bool) :
    (daa8 (add8 ccr (bcd m) (bcd n) false).2 (add8 ccr (bcd m) (bcd n) false).1 v).1 = bcd ((m + n) % 100) := by
  apply BitVec.eq_of_toNat_eq
  rw [daa8_toNat, bcd_toNat (Nat.mod_lt _ (by decide)), if_congr (add8_bcd_low_iff hm hn ccr) rfl rfl,
    if_congr (add8_bcd_high_iff hm hn ccr) rfl rfl, add8_bcd_toNat hm hn, decimal_columns m n]
  exact columns_corrected (by omega) (by omega)

end

/-! ## The instructions -/

/-- ADDA of an immediate byte leaves A and the CCR of the addition (42_arithmetic.md R254). -/
theorem exec_adda_imm {s t : State} {v : Byte} (h : exec (.adda (.imm v)) s = .next t) :
    t.a = (add8 s.ccr s.a v false).1 ∧ t.ccr = (add8 s.ccr s.a v false).2 := by
  obtain rfl := Host.Outcome.next.inj h
  exact ⟨rfl, rfl⟩

/-- DAA leaves A and the CCR of the adjustment, with V drawn (U8). -/
theorem exec_daa {s t : State} (h : exec .daa s = .next t) :
    t.a = (daa8 s.ccr s.a (Config.freeBit s.draws)).1 ∧ t.ccr = (daa8 s.ccr s.a (Config.freeBit s.draws)).2 := by
  obtain rfl := Host.Outcome.next.inj h
  exact ⟨rfl, rfl⟩

/-- DAA changes A and the flags N, Z, V and C alone. -/
theorem daa_completes {s : State} {post : State → Prop} (hp : ∀ t, exec .daa s = .next t → post t) :
    Completes .daa s [.a] [.n, .z, .v, .c] [] post := by
  refine completes_of_registers rfl rfl ?_ (hp _ rfl)
  apply Effect.of_registers <;> simp +contextual [State.setA]

/-- Settles O31: the corrections are those of `daa8`, and after an addition of decimal bytes the low one is added where
the low digits carry, the high one where the sum reaches 100. -/
theorem decimalAdjust : Obligations.DecimalAdjust := by
  unfold Obligations.DecimalAdjust
  refine ⟨fun s => daa_completes fun t ht => ?corrections, fun m n s t u hm hn hs hadd hdaa => ?decimalSum⟩
  case corrections =>
    obtain ⟨ha, hccr⟩ := exec_daa ht
    rw [ha, hccr]
    refine ⟨daa8_toNat .., ?n, ?z, ?c⟩ <;> rw [getFlag_daa8]
    case n => rfl
    case z => rfl
    case c => exact daaCorrection_carry ..
  case decimalSum =>
    obtain ⟨hta, htc⟩ := exec_adda_imm hadd
    obtain ⟨hua, huc⟩ := exec_daa hdaa
    rw [hs] at hta htc
    rw [hua, huc, hta, htc]
    refine ⟨daa8_add8_bcd hm hn s.ccr _, ?_⟩
    rw [getFlag_daa8, if_pos rfl, daaCorrection_carry, decide_eq_decide]
    exact add8_bcd_high_iff hm hn s.ccr

end Sys2Proof.Machine
end

section
/-!
PROOFS. The inherent instructions that write fixed values: CLRA and CLRB (43_logic_bit_shift.md R332, R333) and those that
clear or set one flag (R336, R338 to R341).
-/

namespace Sys2Proof.Machine

/-- Clearing an accumulator leaves it zero with NZVC = 0100. -/
theorem clearAcc_completes {i : Instr} {s : State} {r : Acc}
    (hx : exec i s = .next ((s.advance i).setAcc r (0, clrFlags s.ccr))) :
    Completes i s [r.name] [.n, .z, .v, .c] [] fun t =>
      t.acc r = 0x00 ∧ getFlag t.ccr .n = false ∧ getFlag t.ccr .z = true ∧ getFlag t.ccr .v = false ∧
        getFlag t.ccr .c = false := by
  refine setAcc_completes hx (by simp +contextual) fun t hr hc => ?_
  rw [hc]
  exact ⟨hr, by simp⟩

/-- Writing one flag changes that flag alone. -/
theorem setFlag_completes {i : Instr} {s : State} {f : Flag} {v : Bool}
    (hx : exec i s = .next ((s.advance i).setCcr (setFlag s.ccr f v))) :
    Completes i s [] [f] [] fun t => getFlag t.ccr f = v := by
  refine setCcr_completes hx (fun g hg => ?_) fun t hc => ?_
  · rw [getFlag_setFlag, if_neg fun e => hg (List.mem_singleton.mpr e)]
  · rw [hc, getFlag_setFlag, if_pos rfl]

/-- Settles O34. -/
theorem clearAccumulators : Obligations.ClearAccumulators := by
  unfold Obligations.ClearAccumulators
  refine ⟨rfl, rfl, fun s => ?clra, fun s => ?clrb⟩
  case clra => exact clearAcc_completes (r := .a) rfl
  case clrb => exact clearAcc_completes (r := .b) rfl

/-- Settles O37. -/
theorem singleFlagInstructions : Obligations.SingleFlagInstructions := by
  unfold Obligations.SingleFlagInstructions
  refine ⟨rfl, rfl, rfl, rfl, rfl, fun s => ?clc, fun s => ?clv, fun s => ?sec, fun s => ?sei, fun s => ?sev⟩
  case clc => exact setFlag_completes rfl
  case clv => exact setFlag_completes rfl
  case sec => exact setFlag_completes rfl
  case sei => exact setFlag_completes rfl
  case sev => exact setFlag_completes rfl

end Sys2Proof.Machine
end

section
/-!
PROOFS. Products: MUL, EMUL and EMULS (44_multiply_divide_minmax_table.md R390 to R392).
-/

namespace Sys2Proof.Machine

/-- A product of unsigned numbers fits in twice their width. -/
theorem ofNat_mul_toNat {w : Nat} (x y : BitVec w) :
    (BitVec.ofNat (w * 2) (x.toNat * y.toNat)).toNat = x.toNat * y.toNat :=
  (BitVec.toNat_ofNat ..).trans (Nat.mod_eq_of_lt BitVec.toNat_mul_toNat_lt)

/-- A product changes Y, D and the flags N, Z and C alone (R391). -/
theorem State.effect_setProduct (s : State) (p : BitVec 32) :
    Effect s (s.setProduct p) [.a, .b, .y] [.n, .z, .c] [] := by
  apply Effect.of_registers <;> simp +contextual [State.setProduct]

/-- Y:D is the product (R391). -/
theorem State.setProduct_yd (s : State) (p : BitVec 32) : (s.setProduct p).yd = p := by
  have hd : (s.setProduct p).d = p.extractLsb' 0 16 := s.setD_d _
  rw [State.yd, hd]
  exact (BitVec.extractLsb'_append_extractLsb'_eq_extractLsb' (by decide)).trans BitVec.extractLsb'_eq_self

/-- The flags of a product, by what Y:D then holds (R391, R392). -/
theorem State.setProduct_flags (s : State) (p : BitVec 32) :
    let t := s.setProduct p
    getFlag t.ccr .n = t.yd.msb ∧ getFlag t.ccr .z = decide (t.yd = 0) ∧ getFlag t.ccr .c = t.d.getLsbD 15 := by
  intro t
  have hc : t.d.getLsbD 15 = t.yd.getLsbD 15 := by
    rw [State.yd, BitVec.getLsbD_append, if_pos (by decide)]
  rw [hc, State.setProduct_yd]
  simp [t, State.setProduct, beq_eq_decide]

/-- Bit 31 of Y:D is bit 15 of Y. -/
theorem State.yd_msb (s : State) : s.yd.msb = s.y.getLsbD 15 := by
  rw [State.yd, BitVec.msb_append]
  exact BitVec.msb_eq_getLsbD_last s.y

/-- An instruction that leaves a product in Y:D (R391, R392). -/
theorem setProduct_completes {i : Instr} {s : State} {p : BitVec 32} {post : State → Prop}
    (hx : exec i s = .next ((s.advance i).setProduct p))
    (hp : ∀ t : State, t.yd = p → getFlag t.ccr .n = t.yd.msb → getFlag t.ccr .z = decide (t.yd = 0) →
      getFlag t.ccr .c = t.d.getLsbD 15 → post t) : Completes i s [.a, .b, .y] [.n, .z, .c] [] post := by
  obtain ⟨hn, hz, hc⟩ := (s.advance i).setProduct_flags p
  exact completes_of_registers hx rfl (State.effect_setProduct _ p) (hp _ (State.setProduct_yd _ p) hn hz hc)

/-- Settles O39: each product fits in the registers that take it. -/
theorem multiplications : Obligations.Multiplications := by
  unfold Obligations.Multiplications
  refine ⟨fun s => ?mul, fun s => ?emul, fun s => ?emuls⟩
  case mul =>
    let p := BitVec.ofNat 16 (s.a.toNat * s.b.toNat)
    refine unaryD_completes (op := fun c _ => (p, setFlag c .c (p.getLsbD 7))) rfl (by simp +contextual)
      fun t ht hc => ?_
    rw [ht, hc]
    exact ⟨ofNat_mul_toNat s.a s.b, getFlag_setFlag ..⟩
  case emul =>
    refine setProduct_completes rfl fun t hyd hn hz hc => ?_
    have hval : t.yd.toNat = s.d.toNat * s.y.toNat := by
      rw [hyd]
      exact ofNat_mul_toNat s.d s.y
    refine ⟨hval, hn.trans t.yd_msb, hz.trans ?_, hc⟩
    rw [← hval, decide_eq_decide, ← BitVec.toNat_inj]
    rfl
  case emuls =>
    refine setProduct_completes rfl fun t hyd hn hz hc => ?_
    have hval : t.yd.toInt = s.d.toInt * s.y.toInt := by
      rw [hyd]
      exact wordProduct_toInt s.d s.y
    refine ⟨hval, hn.trans ?_, hz.trans ?_, hc⟩
    · rw [← hval]
      exact BitVec.msb_eq_toInt
    · rw [← hval, decide_eq_decide, ← BitVec.toInt_inj]
      rfl

end Sys2Proof.Machine
end

section
/-!
PROOFS. Quotients and remainders: EDIV, EDIVS, FDIV, IDIV and IDIVS (44_multiply_divide_minmax_table.md R393 to R398).
-/

namespace Sys2Proof.Machine

/-! ## Division as arithmetic -/

/-- A signed value that fits in a word. -/
theorem word_toInt_ofInt {v : Int} (hlow : -32768 ≤ v) (hhigh : v ≤ 32767) : (BitVec.ofInt 16 v : Word).toInt = v := by
  rw [BitVec.toInt_ofInt, Int.bmod_eq_of_le (by omega) (by omega)]

/-- Unsigned division of `n` by the divisor `x`: a dividend below 65536 times the divisor has a quotient that fits. -/
theorem unsigned_division {n : Nat} {x : Word} (h : n < 65536 * x.toNat) :
    n = (BitVec.ofNat 16 (n / x.toNat)).toNat * x.toNat + (BitVec.ofNat 16 (n % x.toNat)).toNat ∧
      (BitVec.ofNat 16 (n % x.toNat)).toNat < x.toNat := by
  have hx := x.isLt
  have hpos : 0 < x.toNat := by omega
  have hq : n / x.toNat < 65536 := Nat.div_lt_of_lt_mul (by rwa [Nat.mul_comm])
  have hr : n % x.toNat < x.toNat := Nat.mod_lt n hpos
  rw [BitVec.toNat_ofNat, BitVec.toNat_ofNat, Nat.mod_eq_of_lt hq, Nat.mod_eq_of_lt (hr.trans hx)]
  exact ⟨(Nat.div_add_mod' n x.toNat).symm, hr⟩

/-- Signed division of `n` by the divisor `x` with a quotient that fits: it truncates toward zero, and the remainder has
the dividend's sign (R393; PRESUMED K25). -/
theorem signed_division {n : Int} {x : Word} (hx : x.toInt ≠ 0) (hlow : -32768 ≤ n.tdiv x.toInt)
    (hhigh : n.tdiv x.toInt ≤ 32767) :
    let q : Word := BitVec.ofInt 16 (n.tdiv x.toInt)
    let r : Word := BitVec.ofInt 16 (n.tmod x.toInt)
    n = q.toInt * x.toInt + r.toInt ∧ r.toInt.natAbs < x.toInt.natAbs ∧ (r.toInt = 0 ∨ (0 ≤ r.toInt ↔ 0 ≤ n)) := by
  intro q r
  have hsize : (n.tmod x.toInt).natAbs < x.toInt.natAbs := by
    rw [Int.natAbs_tmod]
    exact Nat.mod_lt _ (Int.natAbs_pos.mpr hx)
  have hxlow := BitVec.le_toInt x
  have hxhigh := BitVec.toInt_lt (x := x)
  have hq : q.toInt = n.tdiv x.toInt := word_toInt_ofInt hlow hhigh
  have hr : r.toInt = n.tmod x.toInt := word_toInt_ofInt (by omega) (by omega)
  rw [hq, hr]
  refine ⟨(Int.tdiv_mul_add_tmod n x.toInt).symm, hsize, ?_⟩
  rcases Int.lt_or_le n 0 with hn | hn
  · have hneg : 0 ≤ (-n).tmod x.toInt := Int.tmod_nonneg x.toInt (by omega)
    rw [Int.neg_tmod] at hneg
    omega
  · have hnonneg : 0 ≤ n.tmod x.toInt := Int.tmod_nonneg x.toInt hn
    omega

/-- The one signed quotient of a word that does not fit in a word is that of -32768 by -1 (R398). -/
theorem word_tdiv (v : Word) {d : Int} (hd : d ≠ 0) :
    -32768 ≤ v.toInt.tdiv d ∧ v.toInt.tdiv d ≤ 32768 ∧ (v.toInt.tdiv d = 32768 ↔ v.toInt = -32768 ∧ d = -1) := by
  have hlow := BitVec.le_toInt v
  have hhigh := BitVec.toInt_lt (x := v)
  obtain rfl | rfl | hd2 : d = -1 ∨ d = 1 ∨ 2 ≤ d.natAbs := by omega
  case inl =>
    rw [Int.tdiv_neg, Int.tdiv_one]
    omega
  case inr.inl =>
    rw [Int.tdiv_one]
    omega
  case inr.inr =>
    have hsize : (v.toInt.tdiv d).natAbs ≤ v.toInt.natAbs / 2 := by
      rw [Int.natAbs_tdiv]
      exact Nat.div_le_div_left hd2 (by decide)
    omega

/-! ## What a divide leaves -/

/-- An extended divide changes Y, D and the flags N, Z, V and C alone, with a result (R394). -/
theorem State.effect_extendedResult (s : State) (q r : Word) :
    Effect s (s.extendedResult q r) [.a, .b, .y] [.n, .z, .v, .c] [] := by
  apply Effect.of_registers <;> simp +contextual [State.extendedResult]

/-- The same without a result, whatever the corner values (R393, U7). -/
theorem State.effect_extendedCorner (s : State) (op : DivOp) (byZero : Bool) :
    Effect s (s.extendedCorner op byZero) [.a, .b, .y] [.n, .z, .v, .c] [] := by
  cases byZero <;> apply Effect.of_registers <;>
    simp +contextual [State.extendedCorner, getFlag_drawFlags]

/-- C tells a zero divisor, and V an overflow (R394, R395). -/
theorem State.extendedCorner_flags (s : State) (op : DivOp) (byZero : Bool) :
    getFlag (s.extendedCorner op byZero).ccr .c = byZero ∧
      (byZero = false → getFlag (s.extendedCorner op byZero).ccr .v = true) := by
  cases byZero <;> simp [State.extendedCorner, getFlag_drawFlags]

/-- The quotient is in Y and the remainder in D (R394). -/
theorem State.extendedResult_spec (s : State) (q r : Word) :
    let t := s.extendedResult q r
    t.y = q ∧ t.d = r ∧ FlagsNZV16 t q false ∧ getFlag t.ccr .c = false := by
  refine ⟨rfl, s.setD_d r, ⟨?n, ?z, ?v⟩, ?c⟩ <;> refine (getFlag_setNZVC ..).trans ?_ <;> rfl

/-- FDIV and IDIV change X, D and the flags Z, V and C alone, with a result (R396, R397). -/
theorem State.effect_shortResult (s : State) (q r : Word) :
    Effect s (s.shortResult q r) [.a, .b, .x] [.z, .v, .c] [] := by
  apply Effect.of_registers <;> simp +contextual [State.shortResult]

/-- The same without a result. -/
theorem State.effect_shortCorner (s : State) (op : DivOp) (v c : Bool) :
    Effect s (s.shortCorner op v c) [.a, .b, .x] [.z, .v, .c] [] := by
  apply Effect.of_registers <;> simp +contextual [State.shortCorner]

/-- Without a result X is $FFFF and Z is clear (R396, R397). -/
theorem State.shortCorner_spec (s : State) (op : DivOp) (v c : Bool) :
    let t := s.shortCorner op v c
    t.x = 0xFFFF ∧ getFlag t.ccr .c = c ∧ getFlag t.ccr .v = v ∧ getFlag t.ccr .z = false := by
  simp [State.shortCorner]

/-- The quotient is in X and the remainder in D (R396, R397). -/
theorem State.shortResult_spec (s : State) (q r : Word) :
    let t := s.shortResult q r
    t.x = q ∧ t.d = r ∧ getFlag t.ccr .c = false ∧ getFlag t.ccr .v = false ∧ getFlag t.ccr .z = decide (t.x = 0) := by
  refine ⟨rfl, s.setD_d r, ?_⟩
  simp [State.shortResult, beq_eq_decide]

/-- IDIVS without a result changes X, D and the flags N, Z, V and C alone (R398). -/
theorem State.effect_signedCorner (s : State) (byZero : Bool) :
    Effect s (s.signedCorner byZero) [.a, .b, .x] [.n, .z, .v, .c] [] := by
  cases byZero <;> apply Effect.of_registers <;> simp +contextual [State.signedCorner, getFlag_drawFlags]

/-- C tells a zero divisor, and V an overflow (R398). -/
theorem State.signedCorner_flags (s : State) (byZero : Bool) :
    getFlag (s.signedCorner byZero).ccr .c = byZero ∧
      (byZero = false → getFlag (s.signedCorner byZero).ccr .v = true) := by
  cases byZero <;> simp [State.signedCorner, getFlag_drawFlags]

/-- IDIVS with its result: quotient in X, remainder in D (R398). -/
def State.signedResult (s : State) (q r : Word) : State :=
  { s.setD r with x := q, ccr := setNZVC s.ccr q.msb (q == 0) false false }

/-- It changes X, D and the flags N, Z, V and C alone. -/
theorem State.effect_signedResult (s : State) (q r : Word) :
    Effect s (s.signedResult q r) [.a, .b, .x] [.n, .z, .v, .c] [] := by
  apply Effect.of_registers <;> simp +contextual [State.signedResult]

/-- The quotient is in X and the remainder in D. -/
theorem State.signedResult_spec (s : State) (q r : Word) :
    let t := s.signedResult q r
    t.x = q ∧ t.d = r ∧ FlagsNZV16 t q false ∧ getFlag t.ccr .c = false := by
  refine ⟨rfl, s.setD_d r, ⟨?n, ?z, ?v⟩, ?c⟩ <;> refine (getFlag_setNZVC ..).trans ?_ <;> rfl

/-! ## The case that a divide is in -/

/-- A zero divisor, as a number. -/
theorem word_eq_zero_iff (x : Word) : x = 0 ↔ x.toNat = 0 := BitVec.toNat_inj.symm

/-- EDIV: a zero divisor, a quotient of 65536 or more, or a result (R394). -/
theorem State.divideExtended_cases (s : State) :
    s.x = 0 ∧ s.divideExtended = s.extendedCorner .ediv true ∨
    s.x ≠ 0 ∧ 65536 * s.x.toNat ≤ s.yd.toNat ∧ s.divideExtended = s.extendedCorner .ediv false ∨
    s.yd.toNat < 65536 * s.x.toNat ∧ s.divideExtended =
      s.extendedResult (BitVec.ofNat 16 (s.yd.toNat / s.x.toNat)) (BitVec.ofNat 16 (s.yd.toNat % s.x.toNat)) := by
  rw [word_eq_zero_iff, Ne, word_eq_zero_iff]
  by_cases hx : s.x.toNat = 0
  · exact .inl ⟨hx, if_pos hx⟩
  have hover : 65535 < s.yd.toNat / s.x.toNat ↔ 65536 * s.x.toNat ≤ s.yd.toNat :=
    Nat.le_div_iff_mul_le (by omega)
  by_cases hn : 65536 * s.x.toNat ≤ s.yd.toNat
  · exact .inr (.inl ⟨hx, hn, (if_neg hx).trans (if_pos (hover.mpr hn))⟩)
  · exact .inr (.inr ⟨by omega, (if_neg hx).trans (if_neg (mt hover.mp hn))⟩)

/-- EDIVS: a zero divisor, a quotient that does not fit, or a result (R395). -/
theorem State.divideExtendedSigned_cases (s : State) :
    let n := s.yd.toInt
    let d := s.x.toInt
    d = 0 ∧ s.divideExtendedSigned = s.extendedCorner .edivs true ∨
    d ≠ 0 ∧ (32767 < n.tdiv d ∨ n.tdiv d < -32768) ∧ s.divideExtendedSigned = s.extendedCorner .edivs false ∨
    d ≠ 0 ∧ -32768 ≤ n.tdiv d ∧ n.tdiv d ≤ 32767 ∧ s.divideExtendedSigned =
      s.extendedResult (BitVec.ofInt 16 (n.tdiv d)) (BitVec.ofInt 16 (n.tmod d)) := by
  intro n d
  by_cases hd : d = 0
  · exact .inl ⟨hd, if_pos hd⟩
  have hover : (decide (32767 < n.tdiv d) || decide (n.tdiv d < -32768)) = true ↔
      32767 < n.tdiv d ∨ n.tdiv d < -32768 := by simp
  by_cases hq : 32767 < n.tdiv d ∨ n.tdiv d < -32768
  · exact .inr (.inl ⟨hd, hq, (if_neg hd).trans (if_pos (hover.mpr hq))⟩)
  · exact .inr (.inr ⟨hd, by omega, by omega, (if_neg hd).trans (if_neg (mt hover.mp hq))⟩)

/-- FDIV: a dividend not below the divisor, or a result (R396). -/
theorem State.divideFraction_cases (s : State) :
    s.x.toNat ≤ s.d.toNat ∧ s.divideFraction = s.shortCorner .fdiv true (decide (s.x = 0)) ∨
    s.d.toNat < s.x.toNat ∧ s.divideFraction = s.shortResult (BitVec.ofNat 16 (s.d.toNat * 65536 / s.x.toNat))
      (BitVec.ofNat 16 (s.d.toNat * 65536 % s.x.toNat)) := by
  rw [decide_eq_decide.mpr (word_eq_zero_iff s.x)]
  by_cases hx : s.x.toNat = 0
  · exact .inl ⟨by omega, (if_pos hx).trans (by rw [decide_eq_true hx])⟩
  by_cases hn : s.x.toNat ≤ s.d.toNat
  · exact .inl ⟨hn, (if_neg hx).trans ((if_pos hn).trans (by rw [decide_eq_false hx]))⟩
  · exact .inr ⟨by omega, (if_neg hx).trans (if_neg hn)⟩

/-- IDIV: a zero divisor or a result (R397). -/
theorem State.divideInteger_cases (s : State) :
    s.x = 0 ∧ s.divideInteger = s.shortCorner .idiv false true ∨
    s.x ≠ 0 ∧ s.divideInteger = s.shortResult (BitVec.ofNat 16 (s.d.toNat / s.x.toNat))
      (BitVec.ofNat 16 (s.d.toNat % s.x.toNat)) := by
  rw [word_eq_zero_iff, Ne, word_eq_zero_iff]
  by_cases hx : s.x.toNat = 0
  · exact .inl ⟨hx, if_pos hx⟩
  · exact .inr ⟨hx, if_neg hx⟩

/-- IDIVS: a zero divisor, the one quotient that does not fit, or a result (R398). -/
theorem State.divideSigned_cases (s : State) :
    let n := s.d.toInt
    let d := s.x.toInt
    d = 0 ∧ s.divideSigned = s.signedCorner true ∨
    (n = -32768 ∧ d = -1) ∧ s.divideSigned = s.signedCorner false ∨
    d ≠ 0 ∧ ¬(n = -32768 ∧ d = -1) ∧ -32768 ≤ n.tdiv d ∧ n.tdiv d ≤ 32767 ∧ s.divideSigned =
      s.signedResult (BitVec.ofInt 16 (n.tdiv d)) (BitVec.ofInt 16 (n.tmod d)) := by
  intro n d
  by_cases hd : d = 0
  · exact .inl ⟨hd, if_pos hd⟩
  obtain ⟨hlow, hhigh, hover⟩ := word_tdiv s.d hd
  by_cases hn : n = -32768 ∧ d = -1
  · exact .inr (.inl ⟨hn, (if_neg hd).trans (if_pos (hover.mpr hn))⟩)
  · have hq : n.tdiv d ≠ 32768 := mt hover.mp hn
    have hfits : n.tdiv d < 32768 := lt_of_le_of_ne hhigh hq
    exact .inr (.inr ⟨hd, hn, hlow, Int.lt_add_one_iff.mp hfits, (if_neg hd).trans (if_neg hq)⟩)

/-! ## The instructions -/

/-- Settles O40: in each case of the divide the clauses of the other two do not apply. -/
theorem extendedDivisions : Obligations.ExtendedDivisions := by
  unfold Obligations.ExtendedDivisions
  refine ⟨fun s => ?ediv, fun s => ?edivs⟩
  case ediv =>
    let u := s.advance .ediv
    obtain ⟨hx, e⟩ | ⟨hx, hn, e⟩ | ⟨hn, e⟩ := u.divideExtended_cases
    · obtain ⟨hc, -⟩ := u.extendedCorner_flags .ediv true
      refine completes_of_registers (congrArg Host.Outcome.next e) rfl (u.effect_extendedCorner ..)
        ⟨fun _ => hc, fun h => absurd hx h, fun h => absurd h ?_⟩
      simp [show s.x = 0 from hx]
    · obtain ⟨hc, hv⟩ := u.extendedCorner_flags .ediv false
      exact completes_of_registers (congrArg Host.Outcome.next e) rfl (u.effect_extendedCorner ..)
        ⟨fun h => absurd h hx, fun _ _ => ⟨hc, hv rfl⟩, fun h => absurd h (Nat.not_lt.mpr hn)⟩
    · obtain ⟨hy, hd, hflags, hc⟩ := u.extendedResult_spec _ _
      obtain ⟨hval, hlt⟩ := unsigned_division hn
      refine completes_of_registers (congrArg Host.Outcome.next e) rfl (u.effect_extendedResult ..)
        ⟨fun h => absurd hn ?_, fun _ h => absurd hn (Nat.not_lt.mpr h), fun _ => ?_⟩
      · simp [u, h]
      · rw [hy, hd]
        exact ⟨hval, hlt, hflags, hc⟩
  case edivs =>
    let u := s.advance .edivs
    obtain ⟨hd, e⟩ | ⟨hd, hq, e⟩ | ⟨hd, hlow, hhigh, e⟩ := u.divideExtendedSigned_cases
    · obtain ⟨hc, -⟩ := u.extendedCorner_flags .edivs true
      exact completes_of_registers (congrArg Host.Outcome.next e) rfl (u.effect_extendedCorner ..)
        ⟨fun _ => hc, fun h => absurd hd h, fun h => absurd hd h⟩
    · obtain ⟨hc, hv⟩ := u.extendedCorner_flags .edivs false
      refine completes_of_registers (congrArg Host.Outcome.next e) rfl (u.effect_extendedCorner ..)
        ⟨fun h => absurd h hd, fun _ _ => ⟨hc, hv rfl⟩, fun _ hl hh => ?_⟩
      exact hq.elim (fun h => absurd hh (Int.not_le.mpr h)) (fun h => absurd hl (Int.not_le.mpr h))
    · obtain ⟨hy, hr, hflags, hc⟩ := u.extendedResult_spec _ _
      obtain ⟨hval, hlt, hsign⟩ := signed_division hd hlow hhigh
      refine completes_of_registers (congrArg Host.Outcome.next e) rfl (u.effect_extendedResult ..)
        ⟨fun h => absurd h hd, fun _ h => ?_, fun _ _ _ => ?_⟩
      · exact h.elim (fun h => absurd hhigh (Int.not_le.mpr h)) (fun h => absurd hlow (Int.not_le.mpr h))
      · rw [hy, hr]
        exact ⟨hval, hlt, hsign, hflags, hc⟩

/-- Settles O41: in each case of the divide the clauses of the others do not apply. -/
theorem shortDivisions : Obligations.ShortDivisions := by
  unfold Obligations.ShortDivisions
  refine ⟨fun s => ?fdiv, fun s => ?idiv, fun s => ?idivs⟩
  case fdiv =>
    let u := s.advance .fdiv
    obtain ⟨hn, e⟩ | ⟨hn, e⟩ := u.divideFraction_cases
    · exact completes_of_registers (congrArg Host.Outcome.next e) rfl (u.effect_shortCorner ..)
        ⟨fun h => absurd h (Nat.not_lt.mpr hn), fun _ => u.shortCorner_spec ..⟩
    · obtain ⟨hx, hd, hc, hv, hz⟩ := u.shortResult_spec _ _
      obtain ⟨hval, hlt⟩ := unsigned_division (n := u.d.toNat * 65536) (x := u.x) (by omega)
      refine completes_of_registers (congrArg Host.Outcome.next e) rfl (u.effect_shortResult ..)
        ⟨fun _ => ⟨?_, ?_, hc, hv, hz⟩, fun h => absurd hn (Nat.not_lt.mpr h)⟩
      · rw [hx, hd]
        exact hval
      · rw [hd]
        exact hlt
  case idiv =>
    let u := s.advance .idiv
    obtain ⟨hx, e⟩ | ⟨hx, e⟩ := u.divideInteger_cases
    · obtain ⟨hq, hc, hv, hz⟩ := u.shortCorner_spec .idiv false true
      exact completes_of_registers (congrArg Host.Outcome.next e) rfl (u.effect_shortCorner ..)
        ⟨hv, fun h => absurd hx h, fun _ => ⟨hq, hc, hz⟩⟩
    · obtain ⟨hq, hd, hc, hv, hz⟩ := u.shortResult_spec _ _
      have hpos : u.x.toNat ≠ 0 := mt (word_eq_zero_iff u.x).mpr hx
      have hdividend := u.d.isLt
      obtain ⟨hval, hlt⟩ := unsigned_division (n := u.d.toNat) (x := u.x) (by omega)
      refine completes_of_registers (congrArg Host.Outcome.next e) rfl (u.effect_shortResult ..)
        ⟨hv, fun _ => ⟨?_, ?_, hc, hz⟩, fun h => absurd h hx⟩
      · rw [hq, hd]
        exact hval
      · rw [hd]
        exact hlt
  case idivs =>
    let u := s.advance .idivs
    obtain ⟨hd, e⟩ | ⟨⟨hn, hd⟩, e⟩ | ⟨hd, hover, hlow, hhigh, e⟩ := u.divideSigned_cases
    · obtain ⟨hc, -⟩ := u.signedCorner_flags true
      refine completes_of_registers (congrArg Host.Outcome.next e) rfl (u.effect_signedCorner ..)
        ⟨fun _ => hc, fun _ h => ?_, fun h => absurd hd h⟩
      exact absurd (h.symm.trans hd) (by decide)
    · obtain ⟨hc, hv⟩ := u.signedCorner_flags false
      refine completes_of_registers (congrArg Host.Outcome.next e) rfl (u.effect_signedCorner ..)
        ⟨fun h => ?_, fun _ _ => ⟨hc, hv rfl⟩, fun _ h => absurd ⟨hn, hd⟩ h⟩
      exact absurd (h.symm.trans hd) (by decide)
    · obtain ⟨hx, hr, hflags, hc⟩ := u.signedResult_spec _ _
      obtain ⟨hval, hlt, hsign⟩ := signed_division hd hlow hhigh
      refine completes_of_registers (congrArg Host.Outcome.next e) rfl (u.effect_signedResult ..)
        ⟨fun h => absurd h hd, fun h h' => absurd ⟨h, h'⟩ hover, fun _ _ => ?_⟩
      rw [hx, hr]
      exact ⟨hval, hlt, hsign, hflags, hc⟩

end Sys2Proof.Machine
end

section
/-!
PROOFS. Minimum and maximum (44_multiply_divide_minmax_table.md R410 to R417).
-/

namespace Sys2Proof.Machine

/-! ## The choice -/

/-- The larger of two unsigned values, as a number (R410). -/
theorem pickMax_toNat {w : Nat} (a m : BitVec w) : (pickMax a m).toNat = max a.toNat m.toNat := by
  rw [pickMax]
  split
  case isTrue h => exact (max_eq_right (Nat.le_of_lt h)).symm
  case isFalse h => exact (max_eq_left (Nat.not_lt.mp h)).symm

/-- The smaller of two unsigned values, as a number (R412). -/
theorem pickMin_toNat {w : Nat} (a m : BitVec w) : (pickMin a m).toNat = min a.toNat m.toNat := by
  rw [pickMin]
  split
  case isTrue h => exact (min_eq_right (Nat.le_of_lt h)).symm
  case isFalse h => exact (min_eq_left (Nat.not_lt.mp h)).symm

/-- A value is the bit vector of its number. -/
theorem eq_ofNat_of_toNat {w n : Nat} {v : BitVec w} (h : v.toNat = n) : v = BitVec.ofNat w n := by
  rw [← h, BitVec.ofNat_toNat, BitVec.setWidth_eq]

/-! ## Through an effective address -/

section
variable {i : Instr} {s u w t : State} {data auto : List RegName} {flags : List Flag} {l : List (Word × Byte)}
  {post : State → Prop}

/-- What an operand access leaves in the registers is all that matters of it. -/
theorem CompletesVia.congr (h : CompletesVia i s u data auto flags l post) (hu : ∀ r, u.reg r = w.reg r) :
    CompletesVia i s w data auto flags l post := by
  obtain ⟨t, hx, hpc, heff, hreg, hp⟩ := h
  exact ⟨t, hx, hpc, heff, fun r hr => (hreg r hr).trans (hu r), hp⟩

/-- An instruction that forms an effective address, leaving `u`, and then works on to `t`. -/
theorem completesVia_of_address (hx : exec i s = .next t) (hu : Effect (s.advance i) u auto [] []) (hm : u.mem = s.mem)
    (hpc : t.pc = s.pcNext i) (ht : Effect u t data flags l) (hp : post t) :
    CompletesVia i s u data auto flags l post := by
  have haddress : Effect s u (data ++ auto) flags [] :=
    ((s.effect_advance i _ _).after rfl hu).mono (by simp +contextual) (by simp)
  exact ⟨t, hx, hpc, haddress.after hm (ht.mono (by simp +contextual) fun _ h => h), ht.registers, hp⟩

end

/-- Reading a byte leaves the registers. -/
theorem State.read8_reg (s : State) (a : Word) (r : RegName) : (s.read8 a).2.reg r = s.reg r :=
  (s.effect_read8 a [] []).registers r (by simp)

/-- Reading a word leaves the registers. -/
theorem State.read16_reg (s : State) (a : Word) (r : RegName) : (s.read16 a).2.reg r = s.reg r :=
  (s.effect_read16 a [] []).registers r (by simp)

/-! ## The instructions -/

section
variable {i : Instr} {f : IdxFull} {s : State} {num : Nat → Nat → Nat}

/-- MAXA and MINA read an operand and keep one of two values in A (R410, R412). -/
theorem chooseA_completes {pick : Byte → Byte → Byte} (hpick : ∀ a m, (pick a m).toNat = num a.toNat m.toNat)
    (hx : exec i s = .next ((s.advance i).chooseA f pick)) :
    let p := (s.advance i).eaFull f
    let m := (p.2.read8 p.1).1
    CompletesVia i s p.2 [.a] (fullAuto f) [.n, .z, .v, .c] [] fun t =>
      t.a.toNat = num s.a.toNat m.toNat ∧ SubFlags8 t s.a m (s.a - m) := by
  intro p m
  refine (accumulate_completes (r := .a) (o := .mem (.idx f)) (op := fun c a m => (pick a m, (sub8 c a m false).2)) hx
    (by simp +contextual) fun t ht hc => ⟨?_, ?_⟩).congr (p.2.read8_reg p.1)
  · exact (congrArg BitVec.toNat ht).trans (hpick ..)
  · rw [← sub8_fst s.ccr]
    exact sub8_flags hc

/-- EMAXD and EMIND do so in D (R414, R416). -/
theorem chooseD_completes {pick : Word → Word → Word} (hpick : ∀ a m, (pick a m).toNat = num a.toNat m.toNat)
    (hx : exec i s = .next ((s.advance i).chooseD f pick)) :
    let p := (s.advance i).eaFull f
    let m := (p.2.read16 p.1).1
    CompletesVia i s p.2 [.a, .b] (fullAuto f) [.n, .z, .v, .c] [] fun t =>
      t.d.toNat = num s.d.toNat m.toNat ∧ SubFlags16 t s.d m (s.d - m) := by
  intro p m
  refine (accumulateD_completes (o := .mem (.idx f)) (op := fun c a m => (pick a m, (sub16 c a m).2)) hx
    (by simp +contextual) fun t ht hc => ⟨?_, sub16_flags hc⟩).congr (p.2.read16_reg p.1)
  exact (congrArg BitVec.toNat ht).trans (hpick ..)

/-- MAXM and MINM are a read-modify-write: forming the address leaves A and CCR. -/
theorem State.choose8_eq_modifyAt (s : State) (f : IdxFull) (pick : Byte → Byte → Byte) :
    s.choose8 f pick =
      (s.eaFull f).2.modifyAt (s.eaFull f).1 fun ccr m => (pick s.a m, (sub8 ccr s.a m false).2) := by
  simp [State.choose8, State.modifyAt]

/-- MAXM and MINM write the byte back always (R411, R413). -/
theorem choose8_completes {pick : Byte → Byte → Byte} (hpick : ∀ a m, (pick a m).toNat = num a.toNat m.toNat)
    (hx : exec i s = .next ((s.advance i).choose8 f pick)) :
    let p := (s.advance i).eaFull f
    let m := (p.2.read8 p.1).1
    CompletesVia i s p.2 [] (fullAuto f) [.n, .z, .v, .c] [(p.1, BitVec.ofNat 8 (num s.a.toNat m.toNat))] fun t =>
      SubFlags8 t s.a m (s.a - m) := by
  intro p m
  rw [← eq_ofNat_of_toNat (hpick s.a m)]
  refine modifyAt_completes (op := fun ccr m => (pick s.a m, (sub8 ccr s.a m false).2))
    (hx.trans (congrArg _ (State.choose8_eq_modifyAt ..)))
    ((s.effect_advance i _ _).after rfl (State.effect_eaFull _ f)) (by simp [p]) (by simp [p, State.pcNext]) (by simp [p]) (by simp +contextual) fun t ht => ?_
  rw [← sub8_fst s.ccr]
  exact sub8_flags ht

/-- EMAXM and EMINM write the word back always (R415, R417). -/
theorem choose16_completes {pick : Word → Word → Word} (hpick : ∀ a m, (pick a m).toNat = num a.toNat m.toNat)
    (hx : exec i s = .next ((s.advance i).choose16 f pick)) :
    let p := (s.advance i).eaFull f
    let m := (p.2.read16 p.1).1
    CompletesVia i s p.2 [] (fullAuto f) [.n, .z, .v, .c]
      (wordStores p.1 (BitVec.ofNat 16 (num s.d.toNat m.toNat))) fun t => SubFlags16 t s.d m (s.d - m) := by
  intro p m
  let w := (p.2.read16 p.1).2
  have hd : w.d = s.d := by simp [w, p, State.d]
  rw [← eq_ofNat_of_toNat (hpick s.d m), ← hd]
  have hstore : Effect w ((w.write16 p.1 (pick w.d m)).setCcr (sub16 w.ccr w.d m).2) [] [.n, .z, .v, .c]
      (wordStores p.1 (pick w.d m)) :=
    (w.effect_write16 p.1 _ [] _).andThen (State.effect_setCcr _ _ _ _ (by simp +contextual))
  exact completesVia_of_address hx (State.effect_eaFull _ f) (by simp [p]) (by simp [State.choose16, State.pcNext])
    ((p.2.effect_read16 p.1 _ _).after (by simp) hstore) (sub16_flags rfl)

end

/-- Settles O43: each instruction by its destination and its choice. -/
theorem minimumAndMaximum : Obligations.MinimumAndMaximum := by
  unfold Obligations.MinimumAndMaximum
  exact ⟨fun f s => chooseA_completes pickMax_toNat rfl, fun f s => chooseA_completes pickMin_toNat rfl,
    fun f s => chooseD_completes pickMax_toNat rfl, fun f s => chooseD_completes pickMin_toNat rfl,
    fun f s => choose8_completes pickMax_toNat rfl, fun f s => choose8_completes pickMin_toNat rfl,
    fun f s => choose16_completes pickMax_toNat rfl, fun f s => choose16_completes pickMin_toNat rfl⟩

end Sys2Proof.Machine
end

section
/-!
PROOFS. Table interpolation: TBL and ETBL (44_multiply_divide_minmax_table.md R430, R431).
-/

namespace Sys2Proof.Machine

/-! ## The value -/

/-- The interpolated value lies between the two entries: the product moves it toward the second one, by less than the
whole distance. -/
theorem interpolation_between (b : Byte) (y1 y2 : Nat) :
    (min y1 y2 : Int) ≤ y1 + tableProduct b y1 y2 / 256 ∧ y1 + tableProduct b y1 y2 / 256 ≤ (max y1 y2 : Int) := by
  have hb := b.isLt
  rw [tableProduct]
  rcases Nat.le_total y1 y2 with h | h
  · have hlow : 0 ≤ (b.toNat : Int) * (y2 - y1) := Int.mul_nonneg (by omega) (by omega)
    have hhigh : (b.toNat : Int) * (y2 - y1) ≤ 256 * (y2 - y1) :=
      Int.mul_le_mul_of_nonneg_right (by omega) (by omega)
    omega
  · have hlow : 256 * ((y2 : Int) - y1) ≤ (b.toNat : Int) * (y2 - y1) :=
      Int.mul_le_mul_of_nonpos_right (by omega) (by omega)
    have hhigh : (b.toNat : Int) * (y2 - y1) ≤ 0 := Int.mul_nonpos_of_nonneg_of_nonpos (by omega) (by omega)
    omega

/-- So it fits in the width of the entries. -/
theorem interpolation_spec {w : Nat} (b : Byte) (y1 y2 : BitVec w) :
    let v := (y1.toNat : Int) + tableProduct b y1.toNat y2.toNat / 256
    let r := BitVec.ofInt w v
    (r.toNat : Int) = v ∧ min y1.toNat y2.toNat ≤ r.toNat ∧ r.toNat ≤ max y1.toNat y2.toNat := by
  intro v r
  obtain ⟨hlow, hhigh⟩ : (min y1.toNat y2.toNat : Int) ≤ v ∧ v ≤ (max y1.toNat y2.toNat : Int) :=
    interpolation_between b y1.toNat y2.toNat
  have hfits : max y1.toNat y2.toNat < 2 ^ w := max_lt y1.isLt y2.isLt
  have hr : (r.toNat : Int) = v := by
    rw [BitVec.toNat_ofInt, Int.emod_eq_of_lt (by omega) (by omega), Int.toNat_of_nonneg (by omega)]
  omega

/-! ## The carry -/

/-- Bit 7 of the product, as a number (R430). -/
theorem product_bit7 (product : Int) : (BitVec.ofInt 8 product).getLsbD 7 = decide (product / 128 % 2 = 1) := by
  rw [byte_bit7, BitVec.toNat_ofInt, decide_eq_decide]
  omega

/-- Drawing flags changes them alone (U1). -/
theorem State.effect_drawFlags (s : State) (fs : List Flag) : Effect s (s.drawFlags fs) [] fs [] := by
  apply Effect.of_registers <;> simp +contextual [getFlag_drawFlags]

/-- The carry of a table lookup changes C alone, on either variant (R430, U10). -/
theorem State.effect_tableCarry (s : State) (product : Int) : Effect s (s.tableCarry product) [] [.c] [] := by
  rw [State.tableCarry]
  split
  · exact s.effect_setCcr _ _ _ (by simp +contextual)
  · exact s.effect_drawFlags [.c]

@[simp] theorem State.tableCarry_pc (s : State) (product : Int) : (s.tableCarry product).pc = s.pc := by
  rw [State.tableCarry]
  split <;> rfl

@[simp] theorem State.tableCarry_a (s : State) (product : Int) : (s.tableCarry product).a = s.a := by
  rw [State.tableCarry]
  split <;> rfl

@[simp] theorem State.tableCarry_d (s : State) (product : Int) : (s.tableCarry product).d = s.d := by
  rw [State.tableCarry]
  split <;> rfl

/-- On the HCS12 C is bit 7 of the product (R430). -/
theorem State.tableCarry_c {s : State} (product : Int) (h : s.cfg.variant = .hcs12) :
    getFlag (s.tableCarry product).ccr .c = decide (product / 128 % 2 = 1) := by
  rw [State.tableCarry, h, ← product_bit7]
  exact getFlag_setFlag ..

/-- The end of a lookup whose result `r` and its N and Z are in `t` (R430, R431). -/
theorem tableCarry_completes {i : Instr} {s u t : State} {data auto : List RegName} {w : Nat} {r : BitVec w}
    {ccr : Byte} {product : Int} {post : State → Prop} (hx : exec i s = .next (t.tableCarry product))
    (hu : Effect (s.advance i) u auto [] []) (hm : u.mem = s.mem) (hpc : t.pc = s.pcNext i)
    (ht : Effect u t data [.n, .z, .c] []) (hccr : t.ccr = setFlag (setFlag ccr .n r.msb) .z (r == 0))
    (hp : ∀ v : State, v.a = t.a → v.d = t.d → getFlag v.ccr .n = r.msb → getFlag v.ccr .z = decide (r = 0) →
      (s.cfg.variant = .hcs12 → getFlag v.ccr .c = decide (product / 128 % 2 = 1)) → post v) :
    CompletesVia i s u data auto [.n, .z, .c] [] post := by
  have hcarry := t.effect_tableCarry product
  have hflag (f : Flag) (hf : f ≠ .c) : getFlag (t.tableCarry product).ccr f = getFlag t.ccr f :=
    hcarry.flagBits f (by simpa using hf)
  have hcfg : t.cfg = s.cfg := ht.config.trans hu.config
  refine completesVia_of_address hx hu hm (by rw [State.tableCarry_pc, hpc])
    (ht.andThen (hcarry.mono (by simp) (by simp +contextual)))
    (hp _ (t.tableCarry_a product) (t.tableCarry_d product) ?n ?z fun h => State.tableCarry_c product (by rwa [hcfg]))
  case n =>
    rw [hflag .n (by decide), hccr]
    simp
  case z =>
    rw [hflag .z (by decide), hccr]
    simp [beq_eq_decide]

/-! ## The instructions -/

/-- Settles O44: the entries are read, the value and its flags replace A or D, and C is set last. -/
theorem tableInterpolation : Obligations.TableInterpolation := by
  unfold Obligations.TableInterpolation
  refine ⟨fun f s => ?tbl, fun f s => ?etbl⟩
  case tbl =>
    intro p y1 y2 prod
    obtain ⟨hval, hlow, hhigh⟩ := interpolation_spec s.b y1.1 y2.1
    have hread : Effect p.2 y2.2 [.a] [.n, .z, .c] [] :=
      (p.2.effect_read8 p.1 _ _).andThen (y1.2.effect_read8 (p.1 + 1) _ _)
    refine tableCarry_completes rfl (State.effect_eaShort _ f) (by simp [p]) (by simp [State.pcNext])
      (hread.andThen (y2.2.effect_setAcc .a _ _ (by simp +contextual [p, y1, y2]))) rfl fun t ha _ hn hz hc => ?_
    rw [show t.a = _ from ha]
    exact ⟨hval, hlow, hhigh, hn, hz, hc⟩
  case etbl =>
    intro p y1 y2 prod
    obtain ⟨hval, hlow, hhigh⟩ := interpolation_spec s.b y1.1 y2.1
    have hread : Effect p.2 y2.2 [.a, .b] [.n, .z, .c] [] :=
      (p.2.effect_read16 p.1 _ _).andThen (y1.2.effect_read16 (p.1 + 2) _ _)
    refine tableCarry_completes rfl (State.effect_eaShort _ f) (by simp [p]) (by simp [State.pcNext])
      (hread.andThen (y2.2.effect_setDFlags _ _ (by simp +contextual [p, y1, y2]))) rfl fun t _ hd hn hz hc => ?_
    rw [hd, State.setDFlags_d]
    exact ⟨hval, hlow, hhigh, hn, hz, hc⟩

end Sys2Proof.Machine
end

section
/-!
PROOFS. The grade of membership: MEM (46_fuzzy.md R521, R522).
-/

namespace Sys2Proof.Machine

/-! ## The grade -/

/-- One side of the trapezoid over integers (R521, R522). -/
theorem sideGrade_toNat (distance slope : Byte) :
    (sideGrade distance slope).toNat =
      if slope.toNat = 0 then 255 else min (distance.toNat * slope.toNat) 255 := by
  have hzero : slope = 0 ↔ slope.toNat = 0 := BitVec.toNat_inj.symm
  rw [sideGrade]
  by_cases hslope : slope = 0
  · rw [if_pos hslope, if_pos (hzero.mp hslope)]
    rfl
  · rw [if_neg hslope, if_neg (mt hzero.mpr hslope), BitVec.toNat_ofNat, Nat.mod_eq_of_lt (by omega)]

/-- The grade over integers: inside the trapezoid neither distance borrows, and the smaller side is taken (R521). -/
theorem memGrade_toNat (a p1 p2 s1 s2 : Byte) :
    (memGrade a p1 p2 s1 s2).toNat = gradeOf a.toNat p1.toNat p2.toNat s1.toNat s2.toNat := by
  have hout : (a.toNat < p1.toNat ∨ p2.toNat < a.toNat) ↔ (a < p1 ∨ p2 < a) := Iff.rfl
  rw [memGrade, gradeOf]
  by_cases h : a < p1 ∨ p2 < a
  · rw [if_pos h, if_pos (hout.mpr h)]
    rfl
  · obtain ⟨hlow, hhigh⟩ : p1 ≤ a ∧ a ≤ p2 := by simpa using h
    rw [if_neg h, if_neg (mt hout.mp h), ← BitVec.toNat_sub_of_le hlow, ← BitVec.toNat_sub_of_le hhigh,
      ← sideGrade_toNat, ← sideGrade_toNat]
    exact pickMin_toNat ..

/-! ## The four bytes at X -/

/-- The grade of A in the trapezoid whose four bytes stand at X, and the state after their reads (R521). -/
def State.gradeAtX (s : State) : Byte × State :=
  let p1 := s.read8 s.x
  let p2 := p1.2.read8 (s.x + 1)
  let s1 := p2.2.read8 (s.x + 2)
  let s2 := s1.2.read8 (s.x + 3)
  (memGrade s.a p1.1 p2.1 s1.1 s2.1, s2.2)

@[simp] theorem State.gradeAtX_x (s : State) : s.gradeAtX.2.x = s.x := by simp [State.gradeAtX]

@[simp] theorem State.gradeAtX_y (s : State) : s.gradeAtX.2.y = s.y := by simp [State.gradeAtX]

@[simp] theorem State.gradeAtX_pc (s : State) : s.gradeAtX.2.pc = s.pc := by simp [State.gradeAtX]

@[simp] theorem State.gradeAtX_mem (s : State) : s.gradeAtX.2.mem = s.mem := by simp [State.gradeAtX]

/-- Reading the trapezoid changes no register. -/
theorem State.effect_gradeAtX (s : State) (regs : List RegName) (flags : List Flag) :
    Effect s s.gradeAtX.2 regs flags [] :=
  (((s.effect_read8 ..).andThen (State.effect_read8 ..)).andThen (State.effect_read8 ..)).andThen
    (State.effect_read8 ..)

/-- Where the four bytes at X can be read back, the grade is that of what they hold. -/
theorem State.gradeAtX_plain {s : State} (h : ∀ k < 4, s.plain (s.x + BitVec.ofNat 16 k) = true) :
    s.gradeAtX.1 =
      memGrade s.a (s.peek s.x) (s.peek (s.x + 1)) (s.peek (s.x + 2)) (s.peek (s.x + 3)) := by
  have h0 : s.plain s.x = true := by simpa using h 0 (by decide)
  have h1 : s.plain (s.x + 1) = true := h 1 (by decide)
  have h2 : s.plain (s.x + 2) = true := h 2 (by decide)
  have h3 : s.plain (s.x + 3) = true := h 3 (by decide)
  simp only [State.gradeAtX, State.read8_plain h0, State.read8_plain h1, State.read8_plain h2, State.read8_plain h3]

/-! ## The instruction -/

/-- The end of MEM: the grade `g` is stored at Y, X and Y move on, and the flags are drawn (R521, U1). -/
def State.storeGrade (s : State) (g : Byte) : State :=
  { s.write8 s.y g with x := s.x + 4, y := s.y + 1 }.drawFlags [.h, .n, .z, .v, .c]

/-- The end of MEM changes X, Y, the byte at Y and the free flags. -/
theorem State.effect_storeGrade (s : State) (g : Byte) :
    Effect s (s.storeGrade g) [.x, .y] [.h, .n, .z, .v, .c] [(s.y, g)] := by
  have hmove : Effect (s.write8 s.y g) { s.write8 s.y g with x := s.x + 4, y := s.y + 1 } [.x, .y]
      [.h, .n, .z, .v, .c] [] :=
    .of_registers (fun _ => rfl) (fun _ => rfl) (by simp) (by simp) (fun _ => rfl) fun _ _ => rfl
  exact ((s.effect_write8 s.y g _ _).andThen hmove).andThen ((State.effect_drawFlags ..).mono (by simp) fun _ => id)

@[simp] theorem State.storeGrade_pc (s : State) (g : Byte) : (s.storeGrade g).pc = s.pc := by
  simp [State.storeGrade]

@[simp] theorem State.storeGrade_x (s : State) (g : Byte) : (s.storeGrade g).x = s.x + 4 := by
  simp [State.storeGrade]

@[simp] theorem State.storeGrade_y (s : State) (g : Byte) : (s.storeGrade g).y = s.y + 1 := by
  simp [State.storeGrade]

/-- MEM reads the trapezoid, then stores the grade (R521). -/
theorem exec_mem (s : State) :
    exec .mem s = .next ((s.advance .mem).gradeAtX.2.storeGrade (s.advance .mem).gradeAtX.1) := by
  simp [exec, execMem, State.gradeAtX, State.storeGrade]

/-- Settles O52: the stored byte is the one that the reads at X answer. -/
theorem membershipGrade : Obligations.MembershipGrade := by
  unfold Obligations.MembershipGrade
  intro s
  let u := (s.advance .mem).gradeAtX
  have hy : u.2.y = s.y := by simp [u]
  have hx : u.2.x = s.x := by simp [u]
  refine ⟨u.1, ⟨u.2.storeGrade u.1, exec_mem s, ?pc, ?effect, ?moved⟩, fun hplain => ?grade⟩
  case pc => simp [u, State.pcNext]
  case effect =>
    have hread : Effect s u.2 [.x, .y] [.h, .n, .z, .v, .c] [] :=
      (s.effect_advance ..).andThen (State.effect_gradeAtX ..)
    rw [← hy]
    exact hread.after (by simp [u]) (u.2.effect_storeGrade u.1)
  case moved => simp [hx, hy]
  case grade =>
    rw [show u.1 = _ from State.gradeAtX_plain (s := s.advance .mem) hplain, memGrade_toNat]
    rfl

end Sys2Proof.Machine
end

section
/-!
SUPPORT. What entering and leaving an exception does (60_exceptions.md R570, 47_system.md R542, R544): the entry changes
I, X for XIRQ and PC beside its frame, and the frame holds the registers in the order in which RTI pulls them.
-/

namespace Sys2Proof.Machine

/-! ## The entry -/

/-- Beside PC and the CCR the end of an entry changes nothing that a program sees. -/
theorem State.vectorTo_frame (s : State) (v : Word) (setX : Bool) :
    s.vectorTo v setX =
      { s with
        ccr := setFlag (if setX = true then setFlag s.ccr .xm true else s.ccr) .i true
        runState := .running
        progress := none
        ruleStores := []
        pc := (s.vectorTo v setX).pc
        draws := (s.vectorTo v setX).draws } := by
  unfold State.vectorTo
  simp only
  rw [State.read16_frame]
  rfl

/-- An entry sets I, and X where it is that of XIRQ (60_exceptions.md R570). -/
theorem State.getFlag_vectorTo (s : State) (v : Word) (setX : Bool) (f : Flag) :
    getFlag (s.vectorTo v setX).ccr f = (decide (f = .i) || setX && decide (f = .xm) || getFlag s.ccr f) := by
  rw [State.vectorTo_frame]
  cases setX <;> cases f <;> simp

/-- An entry goes to the word at the vector, where it can be read back. -/
theorem State.vectorTo_pc {s : State} {v : Word} (setX : Bool) (h : s.plain v = true) (h' : s.plain (v + 1) = true) :
    (s.vectorTo v setX).pc = s.peek16 v := by
  simp only [State.vectorTo]
  rw [State.read16_plain (by exact h) (by exact h')]
  rfl

/-- The frame of a change, beside the requests that it uses up. -/
theorem Effect.sameRequests {s t : State} {regs : List RegName} {flags : List Flag} {l : List (Word × Byte)}
    (h : Effect s t regs flags l) : Effect s { t with requests := s.requests } regs flags l :=
  ⟨h.registers, h.flagBits, h.memory, h.page, h.run, h.progress, rfl, h.config⟩

/-- What is stacked before the end of an entry is all that the entry stores; I and X come on top of it. -/
theorem Effect.vectorTo {s u : State} {regs : List RegName} {l : List (Word × Byte)}
    (h : Effect s { u with requests := s.requests } regs [] l) (v : Word) (setX : Bool) :
    Effect s { u.vectorTo v setX with runState := s.runState, progress := s.progress, requests := s.requests } regs
      (if setX = true then [.i, .xm] else [.i]) l := by
  refine (h.mono (fun _ => id) fun _ _ => List.not_mem_nil).andThen ?_
  refine .of_registers ?_ ?_ ?_ ?_ ?_ (fun f hf => ?flags) ?_ ?_ h.run.symm h.progress.symm rfl ?_
  case flags =>
    refine (u.getFlag_vectorTo v setX f).trans ?_
    cases setX <;> simp_all
  all_goals simp [State.vectorTo]

/-- After the frame the end of an entry takes the exception (60_exceptions.md R570). -/
theorem Effect.takesException {s u : State} {rtn : Word}
    (h : Effect s { u with requests := s.requests } [.sp] [] (s.frameStores rtn)) (hsp : u.sp = s.sp - 9) (v : Word)
    (setX : Bool) : TakesException s (u.vectorTo v setX) rtn v setX where
  frame := h.vectorTo v setX
  sp := by rw [State.vectorTo_frame]; exact hsp
  i := by simp [State.getFlag_vectorTo]
  xm hx := by simp [State.getFlag_vectorTo, hx]
  pc hv hv' := by
    have hc : u.cfg = s.cfg := h.config
    rw [State.vectorTo_pc setX (by rwa [State.plain_congr hc]) (by rwa [State.plain_congr hc]), State.vectorTo_frame]
    rfl
  running := by rw [State.vectorTo_frame]
  progress := by rw [State.vectorTo_frame]

/-- A running CPU stacks the frame (60_exceptions.md R570). -/
theorem State.takeException_running {s : State} (h : s.runState = .running) (rtn v : Word) (setX : Bool) :
    s.takeException rtn v setX = (s.refill.stackFrame rtn).vectorTo v setX := by
  simp [State.takeException, State.exceptionSequence, State.refill, h]

/-- WAI and STOP have stacked it before (60_exceptions.md R580). -/
theorem State.takeException_suspended {s : State} (h : s.runState = .waiting ∨ s.runState = .stopped) (rtn v : Word)
    (setX : Bool) : s.takeException rtn v setX = s.refill.vectorTo v setX := by
  rcases h with h | h <;> simp [State.takeException, State.exceptionSequence, State.refill, h]

/-! ## The frame -/

/-- The stores of the frame, by their distance from its lowest address. -/
theorem State.frameStores_up (s : State) (rtn : Word) :
    s.frameStores rtn =
      [(s.sp - 9, s.ccr), (s.sp - 9 + 2, s.a), (s.sp - 9 + 1, s.b), (s.sp - 9 + 4, s.x.extractLsb' 0 8),
        (s.sp - 9 + 3, s.x.extractLsb' 8 8), (s.sp - 9 + 6, s.y.extractLsb' 0 8),
        (s.sp - 9 + 5, s.y.extractLsb' 8 8), (s.sp - 9 + 8, rtn.extractLsb' 0 8),
        (s.sp - 9 + 7, rtn.extractLsb' 8 8)] := by
  have hlow : (s.b ++ s.a).extractLsb' 0 8 = s.a := BitVec.extractLsb'_append_eq_right
  have hhigh : (s.b ++ s.a).extractLsb' 8 8 = s.b := BitVec.extractLsb'_append_eq_left
  simp only [State.frameStores, wordStores, hlow, hhigh, List.cons_append, List.nil_append, List.cons.injEq,
    Prod.mk.injEq, and_true, true_and]
  bv_omega

section
variable {s t : State} {rtn : Word} (hpeek : ∀ x, t.peek x = s.overlay (s.frameStores rtn) x)
  (hw : s.frameWritable (s.sp - 9))
include hpeek hw

/-- The nine bytes of the frame, from the lowest address up (47_system.md R544). -/
theorem State.frame_bytes :
    t.peek (s.sp - 9) = s.ccr ∧ t.peek (s.sp - 9 + 1) = s.b ∧ t.peek (s.sp - 9 + 2) = s.a ∧
      t.peek16 (s.sp - 9 + 3) = s.x ∧ t.peek16 (s.sp - 9 + 5) = s.y ∧ t.peek16 (s.sp - 9 + 7) = rtn := by
  rw [State.frameStores_up] at hpeek
  unfold State.frameWritable at hw
  generalize s.sp - 9 = base at *
  have hbase : s.writable base = true := by simpa using hw 0 (by decide)
  simp [State.peek16, hpeek, State.overlay, hbase, hw, add_assoc]

end

/-- A CCR written over one with the same X is the CCR written (10_state.md R35). -/
theorem writeCcr_eq_self {ccr v : Byte} (h : getFlag ccr .xm = getFlag v .xm) : writeCcr ccr v = v := by
  apply ccr_ext
  intro f
  rw [getFlag_writeCcr, h, Bool.and_self]
  split
  next hf => rw [hf]
  next => rfl

end Sys2Proof.Machine
end

section
/-!
PROOFS. Exceptions asked for by an instruction, their undoing by RTI, and the ends of Waiting, Stopped and Background
(47_system.md R540 to R548, 60_exceptions.md R570, R580).
-/

namespace Sys2Proof.Machine

/-! ## SWI, TRAP and RTI -/

/-- An instruction of a running CPU that takes an exception stacks the address after it (47_system.md R540, R541). -/
theorem State.takesException_advance {s : State} (h : s.runState = .running) (i : Instr) (v : Word) :
    TakesException s ((s.advance i).takeException (s.advance i).pc v false) (s.pcNext i) v false := by
  rw [State.takeException_running (s := s.advance i) h]
  have hrefill : Effect s (s.advance i).refill [.sp] [] [] := (s.effect_advance i _ _).andThen (State.effect_refill ..)
  have hframe : Effect s ((s.advance i).refill.stackFrame (s.pcNext i)) [.sp] [] (s.frameStores (s.pcNext i)) :=
    hrefill.after rfl (State.effect_stackFrame ..)
  exact Effect.takesException hframe.sameRequests (State.stackFrame_sp ..) v false

/-- Settles O56. -/
theorem softwareExceptions : Obligations.SoftwareExceptions := by
  unfold Obligations.SoftwareExceptions
  intro s hrun
  exact ⟨⟨_, rfl, State.takesException_advance hrun .swi _⟩,
    fun tn => ⟨_, rfl, State.takesException_advance hrun (.trap tn) _⟩⟩

/-- Settles O58: RTI pulls what SWI has stacked, in the same order (47_system.md R542, R544). -/
theorem rtiUndoesSwi : Obligations.RtiUndoesSwi := by
  unfold Obligations.RtiUndoesSwi
  intro s t u hrun hm hw hswi hrti
  obtain ⟨t', hswi', ht⟩ := (softwareExceptions s hrun).1
  obtain rfl := Host.Outcome.next.inj (hswi.symm.trans hswi')
  obtain ⟨u', hrti', husp, -, hpulled⟩ := returnFromInterrupt t
  obtain rfl := Host.Outcome.next.inj (hrti.symm.trans hrti')
  have hplain : ∀ k < 9, t.plain (t.sp + BitVec.ofNat 16 k) = true := fun k hk => by
    rw [ht.sp]
    exact State.plain_of_writable_congr ht.frame.config (hw k hk)
  obtain ⟨hccr, hb, ha, hx, hy, hpc⟩ := hpulled hplain
  obtain ⟨fccr, fb, fa, fx, fy, fpc⟩ := State.frame_bytes (t := t) (ht.frame.memory (.inr hm)) hw
  have hxm : getFlag t.ccr .xm = getFlag s.ccr .xm := ht.frame.flagBits .xm (by decide)
  rw [ht.sp] at husp hccr hb ha hx hy hpc
  refine ⟨ha.trans fa, hb.trans fb, hx.trans fx, hy.trans fy, ?_, ?_, hpc.trans fpc⟩
  · rw [husp, BitVec.sub_add_cancel]
  · rw [hccr, fccr, ← writeCcr_eq_written8, writeCcr_eq_self hxm]

/-! ## Waiting, Stopped and Background -/

/-- In Background nothing but a reset is taken (47_system.md R548). -/
theorem State.eventOf_background {s : State} {r : Requests} (h : s.runState = .background) (hr : r.noReset) :
    s.eventOf r = none := by
  obtain ⟨hpin, hclock, hcop, -⟩ := hr
  simp [State.eventOf, hpin, hclock, hcop, h]

/-- And the CPU does nothing (10_state.md R39). -/
theorem State.quietWork_background {s : State} (h : s.runState = .background) : s.quietWork = (.halted, s) := by
  unfold State.quietWork
  rw [h]

/-- An entry from Waiting or Stopped stacks nothing and leaves SP where it is (60_exceptions.md R580). -/
theorem State.wakes_takeException {s t : State} {rest : List Requests} {rtn v : Word} {setX : Bool}
    (h : s.runState = .waiting ∨ s.runState = .stopped)
    (ht : t = { s with requests := rest }.takeException rtn v setX) :
    Wakes s t v setX ∧ t.sp = s.sp ∧ t.requests = rest := by
  rw [State.takeException_suspended (s := { s with requests := rest }) h] at ht
  obtain ⟨-, -, hsp, -, hreq, -⟩ := (State.refill { s with requests := rest }).vectorTo_keeps v setX
  have hnothing : Effect s { State.refill { s with requests := rest } with requests := s.requests } [] [] [] :=
    s.effect_refill ..
  subst ht
  exact ⟨⟨hnothing.vectorTo v setX, by simp [State.getFlag_vectorTo], fun hx => by simp [State.getFlag_vectorTo, hx],
    State.vectorTo_pc (s := State.refill { s with requests := rest }) setX, by rw [State.vectorTo_frame],
    by rw [State.vectorTo_frame]⟩, hsp, hreq⟩

/-- Reading ahead takes nothing of that back. -/
theorem Wakes.readAhead {s t : State} {v : Word} {setX : Bool} (h : Wakes s t v setX) : Wakes s t.readAhead v setX := by
  obtain ⟨hf, hi, hxm, hpc, hrun, hprogress⟩ := h
  rw [State.readAhead_frame]
  exact ⟨⟨hf.registers, hf.flagBits, hf.memory, hf.page, rfl, rfl, rfl, hf.config⟩, hi, hxm, hpc, hrun, hprogress⟩

section
variable {s : State} {r : Requests} {rest : List Requests} (hs : s.requests = r :: rest) (hr : r.noReset)
include hs hr

/-- No reset cuts off what the sampling point leads to. -/
theorem State.sample_uncut : s.sample.1.cutBy = none := by
  obtain ⟨-, -, -, hcut⟩ := hr
  rw [State.sample_cons hs, hcut]

/-- A step whose sampling point shows no reset and leads to an event. -/
theorem step_cons_event {e : Event} (he : s.eventOf r = some e) :
    step s = .next (State.readAhead ({ s with requests := rest }.takeEvent e)) := by
  rw [step_event (State.sample_uncut hs hr) ((State.eventOf_sample hs).trans he), State.sample_cons hs, settle_next]

/-- A step of a suspended CPU whose sampling point shows no reset and leads to no event. -/
theorem step_cons_wait (hrun : s.runState = .waiting ∨ s.runState = .stopped) (he : s.eventOf r = none) :
    step s = .next { s with requests := rest } := by
  rw [step_quiet (State.sample_uncut hs hr) ((State.eventOf_sample hs).trans he), State.sample_cons hs,
    State.quietWork_wait (s := { s with requests := rest }) hrun]
  rfl

end

/-- Settles O16: the event that the masks leave, and what is done where they leave none (60_exceptions.md R580). -/
theorem suspendedStatesEnd : Obligations.SuspendedStatesEnd := by
  unfold Obligations.SuspendedStatesEnd
  refine ⟨fun s hrun hs => ?past, fun s r rest hrun hs hr => ?_, fun s hrun hr => ?background⟩
  case past =>
    have hsample := State.sample_nil hs
    rw [step_quiet (by rw [hsample]; rfl) (by rw [hsample]; exact s.eventOf_noRequests), hsample,
      State.quietWork_wait hrun]
    rfl
  case background =>
    have ⟨_, _, _, hcut⟩ := hr
    rw [step_quiet hcut (State.eventOf_background (by simpa using hrun) hr),
      State.quietWork_background (by simpa using hrun)]
    rfl
  have hb : s.runState ≠ .background := by rcases hrun with h | h <;> simp [h]
  refine ⟨fun v setX ht => ?taken, fun hn hstop hx => ?resumed, fun hn hx => ?kept⟩
  case taken =>
    obtain ⟨hwakes, hsp, hreq⟩ := State.wakes_takeException (rest := rest) (rtn := s.pc) (v := v) (setX := setX) hrun rfl
    exact ⟨_, step_cons_event hs hr (State.eventOf_takes hb hr ht), hwakes.readAhead,
      (State.readAhead_sp _).trans hsp, (State.readAhead_requests _).trans hreq⟩
  case resumed =>
    rw [step_cons_event hs hr ((State.eventOf_takesNone hb hr hn).trans (if_pos ⟨hx, hstop⟩))]
    rfl
  case kept =>
    refine step_cons_wait hs hr hrun ((State.eventOf_takesNone hb hr hn).trans (if_neg ?_))
    rintro ⟨hx', hstop⟩
    rcases hx with hx | hx
    · simp [hx] at hstop
    · simp [hx] at hx'

end Sys2Proof.Machine
end

section
/-!
PROOFS. What a sampling point does to a CPU: the interrupts that the masks of a running one allow, and the resets, which
every run state takes, at the sampling point or in the middle of the work after it (60_exceptions.md R566 to R577,
70_reset_and_hazards.md R611).
-/

namespace Sys2Proof.Machine

/-! ## Interrupts of a running CPU -/

/-- Reading ahead takes nothing back of an exception taken. -/
theorem TakesException.readAhead {s t : State} {rtn v : Word} {setX : Bool} (h : TakesException s t rtn v setX) :
    TakesException s t.readAhead rtn v setX := by
  obtain ⟨hf, hsp, hi, hxm, hpc, hrun, hprogress⟩ := h
  rw [State.readAhead_frame]
  exact ⟨⟨hf.registers, hf.flagBits, hf.memory, hf.page, rfl, rfl, rfl, hf.config⟩, hsp, hi, hxm, hpc, hrun, hprogress⟩

/-- The requests that a sampling point has used up are no part of a frame. -/
theorem Effect.ofSampled {s t : State} {rest : List Requests} {regs : List RegName} {flags : List Flag}
    {l : List (Word × Byte)} (h : Effect { s with requests := rest } t regs flags l) :
    Effect s { t with requests := s.requests } regs flags l where
  registers := h.registers
  flagBits := h.flagBits
  memory hw x := by
    refine (h.memory hw x).trans (State.overlay_congr (fun _ => ?_) ?_ l x) <;> rfl
  page := h.page
  run := h.run
  progress := h.progress
  requests := rfl
  config := h.config

/-- Nor of an exception taken. -/
theorem TakesException.ofSampled {s t : State} {rest : List Requests} {rtn v : Word} {setX : Bool}
    (h : TakesException { s with requests := rest } t rtn v setX) : TakesException s t rtn v setX :=
  ⟨h.frame.ofSampled, h.sp, h.i, h.xm, h.pc, h.running, h.progress⟩

/-- A running CPU that takes an interrupt stacks PC (60_exceptions.md R570, R573). -/
theorem State.takesException_interrupt {s : State} (h : s.runState = .running) (v : Word) (setX : Bool) :
    TakesException s (s.takeEvent (.interrupt v setX)) s.pc v setX := by
  have hframe : Effect s (s.refill.stackFrame s.pc) [.sp] [] (s.frameStores s.pc) :=
    (s.effect_refill _ _).after rfl (State.effect_stackFrame ..)
  have htakes := Effect.takesException hframe.sameRequests (State.stackFrame_sp ..) v setX
  rwa [← State.takeException_running h] at htakes

/-- A step whose sampling point shows no reset and leads to no event does what the rest of the state leaves to do. -/
theorem step_cons_quiet {s : State} {r : Requests} {rest : List Requests} (hs : s.requests = r :: rest)
    (hr : r.noReset) (he : s.eventOf r = none) :
    step s = (State.quietWork { s with requests := rest }).2.perform (State.quietWork { s with requests := rest }).1 := by
  rw [step_quiet (State.sample_uncut hs hr) ((State.eventOf_sample hs).trans he), State.sample_cons hs]

/-- Settles O14: the interrupt that the masks allow is taken, and where they allow none the step is that of a sampling
point without a request. -/
theorem interruptsOfARunningCpu : Obligations.InterruptsOfARunningCpu := by
  unfold Obligations.InterruptsOfARunningCpu
  intro s r rest hrun hs hr
  have hb : s.runState ≠ .background := by simp [hrun]
  refine ⟨fun v setX ht => ?taken, fun hn => ?heldOff⟩
  case taken =>
    have htakes := State.takesException_interrupt (s := { s with requests := rest }) hrun v setX
    obtain ⟨-, -, -, hreq, -⟩ := State.takeException_keeps { s with requests := rest } s.pc v setX
    exact ⟨_, step_cons_event hs hr (State.eventOf_takes hb hr ht), htakes.ofSampled.readAhead,
      (State.readAhead_requests _).trans hreq⟩
  case heldOff =>
    have hnone : s.eventOf r = none :=
      (State.eventOf_takesNone hb hr hn).trans (if_neg fun ⟨_, hstop⟩ => nomatch hrun.symm.trans hstop)
    exact (step_cons_quiet hs hr hnone).trans
      (step_cons_quiet (s := { s with requests := noRequests :: rest }) rfl ⟨rfl, rfl, rfl, rfl⟩
        (State.eventOf_noRequests _)).symm

/-! ## Resets -/

/-- The first cause of a reset is the event, in every run state (60_exceptions.md R566). -/
theorem State.eventOf_resetBy {s : State} {r : Requests} {v : Word} (h : s.resetBy r v) :
    s.eventOf r = some (.reset v) := by
  unfold State.eventOf
  obtain ⟨-, ⟨hpin, rfl⟩ | ⟨hpin, hclock, rfl⟩ | ⟨hpin, hclock, hcop, rfl⟩⟩ := h
  · rw [if_pos hpin]
  · rw [if_neg (by simp [hpin]), if_pos hclock]
  · rw [if_neg (by simp [hpin]), if_neg (by simp [hclock]), if_pos hcop]

/-- The vector of a reset depends on the parameters alone (60_exceptions.md R565). -/
theorem State.resetVector_congr {s t : State} (hc : t.cfg = s.cfg) (c : ResetCause) :
    t.resetVector c = s.resetVector c := by
  cases c <;> simp [State.resetVector, hc]

/-- Where a reset leads to is seen from every state with the same memory, PPAGE and parameters. -/
theorem ResetFrom.congr {s u t : State} {v : Word} {lost : List Word} {rest : List Requests}
    (h : ResetFrom u t v lost rest) (hm : u.mem = s.mem) (hp : u.ppage = s.ppage) (hc : u.cfg = s.cfg) :
    ResetFrom s t v lost rest where
  masks := h.masks
  running := h.running
  nothingBegun := h.nothingBegun
  requests := h.requests
  config := h.config.trans hc
  memory hl := (h.memory hl).trans hm
  kept hn hw x hx := (h.kept (by rwa [hc]) (by rwa [hm]) x hx).trans (State.peek_congr hm hp hc x)
  free hn hw x hx hwr := h.free (by rwa [hc]) (by rwa [hm]) x hx (by rwa [State.writable_congr hc])
  target hn h1 h2 := h.target (by rwa [hc]) (by rwa [State.plain_congr hc]) (by rwa [State.plain_congr hc])

/-- Whatever the bytes fetched decode to, the work starts from the state after the fetch. -/
theorem State.fetchWork_snd (s : State) : s.fetchWork.2 = s.fetch.2 := by
  cases hd : decode s.fetch.1 with
  | ok i rest => rw [State.fetchWork_ok hd]
  | bad e => rw [State.fetchWork_bad hd]

/-- Choosing the work, a fetch included, leaves memory, PPAGE, the parameters and the coming requests alone. -/
theorem State.work_keeps (s : State) (r : Requests) :
    (s.work r).2.mem = s.mem ∧ (s.work r).2.ppage = s.ppage ∧ (s.work r).2.cfg = s.cfg ∧
      (s.work r).2.requests = s.requests := by
  cases he : s.eventOf r with
  | some e =>
    rw [State.work_event he]
    exact ⟨rfl, rfl, rfl, rfl⟩
  | none =>
    rw [State.work_quiet he]
    cases hrun : s.runState
    case waiting | stopped =>
      rw [State.quietWork_wait (by simp [hrun])]
      exact ⟨rfl, rfl, rfl, rfl⟩
    case background =>
      rw [State.quietWork_background hrun]
      exact ⟨rfl, rfl, rfl, rfl⟩
    case running =>
      cases hp : s.progress with
      | some k =>
        rw [State.quietWork_goOn hrun hp]
        exact ⟨rfl, rfl, rfl, rfl⟩
      | none =>
        rw [State.quietWork_fetch hrun hp, State.fetchWork_snd, State.fetch_frame]
        exact ⟨rfl, rfl, rfl, rfl⟩

/-- Work that a reset cuts off ends in the reset sequence, unless the model refuses it: what it would have stored, and what
the evaluation it goes on with has stored, is free (70_reset_and_hazards.md R611, U19). -/
theorem State.resetFrom_performCut {s : State} {w : Work} (h : ∀ e, s.forgetStores.perform w ≠ .refused e)
    (c : ResetCause) :
    ∃ t, s.performCut w c = .next t ∧ ResetFrom s t (s.resetVector c) (s.mayStore w) s.requests := by
  unfold State.performCut State.mayStore
  cases hw : s.forgetStores.perform w with
  | next t => exact ⟨_, rfl, (s.resetFrom_cutOff c t).readAhead⟩
  | fault f =>
    rw [List.append_nil]
    exact ⟨_, rfl, (s.resetFrom_takeEvent (s.resetVector c)).readAhead⟩
  | refused e => exact absurd hw (h e)

section
variable {s : State} {r : Requests} {rest : List Requests} (hs : s.requests = r :: rest)
include hs

/-- A step whose sampling point shows a reset takes it. -/
theorem step_resetBy {v : Word} (h : s.resetBy r v) :
    step s = .next (State.readAhead ({ s with requests := rest }.takeEvent (.reset v))) := by
  have hsample := State.sample_cons hs
  have ⟨hcut, _⟩ := h
  rw [step_event (by rw [hsample, hcut]) ((State.eventOf_sample hs).trans (State.eventOf_resetBy h)), hsample, settle_next]

/-- A step whose sampling point has a reset behind it starts the work that the point leaves, and is cut off. -/
theorem step_cut {c : ResetCause} (h : r.cutBy = some c) :
    step s = (State.work { s with requests := rest } r).2.performCut (State.work { s with requests := rest } r).1 c := by
  rw [step, State.cycle, State.sample_cons hs]
  simp only [h]

end

/-- Settles O15: at the sampling point the reset is the event, behind it the end of the work. -/
theorem resetIsTakenFromEveryRunState : Obligations.ResetIsTakenFromEveryRunState := by
  unfold Obligations.ResetIsTakenFromEveryRunState
  refine ⟨fun s r rest v hs h => ?atPoint, fun s r rest c hs hcut => ?behind⟩
  case atPoint =>
    have hreset := State.resetFrom_takeEvent { s with requests := rest } v
    exact ⟨_, step_resetBy hs h, hreset.readAhead.congr rfl rfl rfl⟩
  case behind =>
    intro w hw
    obtain ⟨t, ht, hreset⟩ := State.resetFrom_performCut hw c
    obtain ⟨hm, hp, hcfg, hreq⟩ := State.work_keeps { s with requests := rest } r
    rw [hreq, State.resetVector_congr hcfg] at hreset
    exact ⟨t, (step_cut hs hcut).trans ht, hreset.congr hm hp hcfg⟩

end Sys2Proof.Machine
end
